-- ==== Sys2Proof/Word.lean ====
section
/-! DEFINITION. The word, byte and block types of the datapath (00_scope.md R5, R6) and its two word
operations (R9, R130). -/

namespace Sys2Proof

/-- A byte: 8 bits, unsigned (R6). -/
abbrev Byte := BitVec 8

/-- A 32-bit word, bit 31 the most significant (R5, R6). -/
abbrev Word := BitVec 32

/-- A block: exactly 8 bytes, element 0 first (R5, R7). -/
abbrev Block := Vector Byte 8

/-- A digest: exactly 32 bytes (R5, R200). -/
abbrev Digest := Vector Byte 32

/-- `a +wrap b`, addition modulo 2^32 (R9, R130): the carry out of bit 31 is lost. -/
def wrapAdd (a b : Word) : Word := a + b

/-- One S-box: 256 words (R5, R23). -/
abbrev SBox := Vector Word 256

end Sys2Proof
end

