-- ==== Sys2Proof/Config.lean ====
section
/-! DEFINITION. What an implementation fixes: the three OPEN parameters of 00_scope.md R5 (`AW`,
`FB_RESET`, `Digest`), the two of them that are free values, and the fixed parameters. -/

namespace Sys2Proof

/-- Which function answers on the digest port (R200). The spec leaves it OPEN (R5, R203): the
default is the uninterpreted one. A model of a system whose collaborator is known names it here, as
plain data, so that a run can be evaluated (log entry 3). -/
inductive DigestPort
  /-- The OPEN parameter: nothing is known of the answer but that it is a function of the password
  (R201). -/
  | unspecified
  /-- RIPEMD-256, the instantiation that reproduces the source's vectors (R203, R204). -/
  | ripemd256
  /-- A collaborator that answers the listed passwords as listed and fails on every other (R202). -/
  | answers (table : List (List Byte × Option Digest))
deriving DecidableEq, Repr

/-- The OPEN parameters of the block (R5; 92_eei_decisions.md D4, D12, D26), fixed for one machine
and never changed by a step. -/
structure Config where
  /-- `AW`: the width of a DATA address and of a length operand; the spec asks `AW >= 1` (D4). -/
  aw : Nat
  /-- `FB_RESET`: the value of FB after hardware reset (D12). -/
  fbReset : Block
  /-- `Digest`: the function on the digest port (D26). -/
  digest : DigestPort
deriving DecidableEq, Repr

/-- FREE VALUE (log entry 2): `FB_RESET`, any 8 bytes; no proof can see which (R32, U7). -/
opaque Config.freeFbReset : Block

/-- FREE VALUE (log entry 3): the answer of the OPEN `Digest` on a password: 32 bytes, or `none` for
`fail` (R200, R201). -/
opaque Config.freeDigest : List Byte → Option Digest

/-- DESIGN CHOICE (log entry 1): the `AW` of the machine `State.reset` describes, the spec's
suggested 32 (R5, D4). Every statement about all states holds for every `AW`. -/
def Config.suggestedAw : Nat := 32

/-- The configuration of the machine `State.reset` describes. -/
def Config.atReset : Config :=
  { aw := Config.suggestedAw, fbReset := Config.freeFbReset, digest := .unspecified }

/-- `WK_RESET` = 0 (R5, R25; D11). -/
def Config.wkReset : Bool := false

end Sys2Proof
end

