-- ==== Sys2Proof/Syntax.lean ====
section
/-! DEFINITION. The commands of the block, one constructor per row of spec/opcode_table.json
(30_encoding.md R91, R93), and a transaction on the command port (R90). -/

namespace Sys2Proof

/-- The six commands with their operands. An operand is used as the natural number it denotes
(R94). -/
inductive Instr
  /-- CE_INIT, format K: `KEY`, `OFF`, `LEN` (R124). -/
  | ceInit (key off len : Nat)
  /-- CE_ENC, format B: `SRC`, `DST`, `LEN` (R128). -/
  | ceEnc (src dst len : Nat)
  /-- CE_DEC, format B (R129). -/
  | ceDec (src dst len : Nat)
  /-- FS_INIT, format W: `PW`, an ignored operand `b` (R95), `LEN` (R167). -/
  | fsInit (pw ignored len : Nat)
  /-- FS_ENC, format B (R164). -/
  | fsEnc (src dst len : Nat)
  /-- FS_DEC, format B (R165). -/
  | fsDec (src dst len : Nat)
deriving DecidableEq, Repr

/-- The four values the host presents together on the command port (R90): the opcode byte and three
operands, whose wires are `AW` bits wide. -/
structure Transaction where
  op : BitVec 8
  a : Nat
  b : Nat
  len : Nat
deriving DecidableEq, Repr

end Sys2Proof
end

