-- ==== Sys2Proof/WellFormed.lean ====
section
/-! DEFINITION. Which commands the command port can carry: every operand is an unsigned `AW`-bit
number (30_encoding.md R90, R94). -/

namespace Sys2Proof

/-- An operand fits on wires that are `aw` bits wide. -/
def fitsWires (aw n : Nat) : Bool := decide (n < 2 ^ aw)

/-- A command whose three operands fit on the port (R90, R94). No value that fits is refused: no
alignment (R66), no maximum length (R5), any ignored operand (R95). -/
def WellFormed (aw : Nat) : Instr → Bool
  | .ceInit key off len => fitsWires aw key && fitsWires aw off && fitsWires aw len
  | .ceEnc src dst len => fitsWires aw src && fitsWires aw dst && fitsWires aw len
  | .ceDec src dst len => fitsWires aw src && fitsWires aw dst && fitsWires aw len
  | .fsInit pw ignored len => fitsWires aw pw && fitsWires aw ignored && fitsWires aw len
  | .fsEnc src dst len => fitsWires aw src && fitsWires aw dst && fitsWires aw len
  | .fsDec src dst len => fitsWires aw src && fitsWires aw dst && fitsWires aw len

/-- A transaction whose operands fit on wires `aw` bits wide (R90). -/
def Transaction.fits (aw : Nat) (t : Transaction) : Bool :=
  fitsWires aw t.a && fitsWires aw t.b && fitsWires aw t.len

end Sys2Proof
end

