-- ==== Sys2Proof/Decode.lean ====
section
/-! DEFINITION. From the command port to a command and back (30_encoding.md R90 to R99): the opcode
map, the decoder, the encoder, the serial numbering of a command's bits, the assembler's tuples. -/

namespace Sys2Proof

/-! ## The fields of the opcode byte (R92) -/

/-- `op[7:3]`, reserved: must be 00000. -/
def opReserved (op : BitVec 8) : BitVec 5 := op.extractLsb' 3 5

/-- `op[2]`, `UNIT`: 0 = CE, 1 = FS. -/
def opUnit (op : BitVec 8) : BitVec 1 := op.extractLsb' 2 1

/-- `op[1:0]`, `FN`: 01 = INIT, 10 = ENC, 11 = DEC. -/
def opFn (op : BitVec 8) : BitVec 2 := op.extractLsb' 0 2

/-- The number that `aw` wires carry of a value: its low `aw` bits (log entry 9). -/
def onWires (aw n : Nat) : Nat := n % 2 ^ aw

/-! ## The decoder -/

/-- Why an opcode byte names no command (R96). -/
inductive DecodeError
  /-- one of `op[7:3]` is not 0 (0x08 to 0xFF) -/
  | reservedBitsSet
  /-- `FN` = 00 (0x00 and 0x04) -/
  | noFunction
deriving DecidableEq, Repr

/-- The command a transaction carries on a machine with `aw`-bit operands, or the reason it is
illegal. Total on all 256 values of `op` (R92, R93, R96); the operands are looked at only by a legal
command (R233). -/
def decode (aw : Nat) (t : Transaction) : Except DecodeError Instr :=
  if opReserved t.op ≠ 0 then .error .reservedBitsSet
  else if opFn t.op = 0 then .error .noFunction
  else
    let a := onWires aw t.a
    let b := onWires aw t.b
    let len := onWires aw t.len
    if opUnit t.op = 0 then
      if opFn t.op = 1 then .ok (.ceInit a b len)
      else if opFn t.op = 2 then .ok (.ceEnc a b len)
      else .ok (.ceDec a b len)
    else
      if opFn t.op = 1 then .ok (.fsInit a b len)
      else if opFn t.op = 2 then .ok (.fsEnc a b len)
      else .ok (.fsDec a b len)

/-! ## The encoder -/

/-- The opcode byte from its two fields, the reserved bits 00000 (R92). -/
def opByte (unit : BitVec 1) (fn : BitVec 2) : BitVec 8 := (0 : BitVec 5) ++ unit ++ fn

/-- The transaction that presents a command (R91, R93). -/
def encode : Instr → Transaction
  | .ceInit key off len => { op := opByte 0 1, a := key, b := off, len := len }
  | .ceEnc src dst len => { op := opByte 0 2, a := src, b := dst, len := len }
  | .ceDec src dst len => { op := opByte 0 3, a := src, b := dst, len := len }
  | .fsInit pw ignored len => { op := opByte 1 1, a := pw, b := ignored, len := len }
  | .fsEnc src dst len => { op := opByte 1 2, a := src, b := dst, len := len }
  | .fsDec src dst len => { op := opByte 1 3, a := src, b := dst, len := len }

/-! ## The bits of a command as one number

A command is `8 + 3 x AW` bits (R91). The spec presents them on four separate groups of wires; one
number for all of them is the model's (log entry 8): `op` lowest, then `a`, `b`, `len`. -/

/-- A transaction from the number of its bits, bit 0 the least significant bit of `op`. -/
def Transaction.ofBits (aw w : Nat) : Transaction :=
  { op := BitVec.ofNat 8 w
    a := onWires aw (w / 2 ^ 8)
    b := onWires aw (w / 2 ^ (8 + aw))
    len := onWires aw (w / 2 ^ (8 + 2 * aw)) }

/-- The number of a transaction's bits. -/
def Transaction.toBits (aw : Nat) (t : Transaction) : Nat :=
  t.op.toNat + 2 ^ 8 * (onWires aw t.a + 2 ^ aw * (onWires aw t.b + 2 ^ aw * onWires aw t.len))

/-- How many bits a command has (R91). -/
def commandBits (aw : Nat) : Nat := 8 + 3 * aw

/-- The command the decoder reads from a command whose bits are `w`, every bit from `nbits` up being
0, on the machine `State.reset` describes. -/
def decodeTableWord (nbits w : Nat) : Option Instr :=
  match decode Config.suggestedAw (Transaction.ofBits Config.suggestedAw (w % 2 ^ nbits)) with
  | .ok i => some i
  | .error _ => none

/-! ## The opcode map as the spec prints it (R93) -/

/-- A row of the opcode map: selected when `(op AND mask) = pattern`. -/
structure OpcodeRow where
  mnemonic : String
  pattern : BitVec 8
  mask : BitVec 8
deriving DecidableEq, Repr

/-- The six rows of R93, all masks 0xFF. -/
def opcodeRows : List OpcodeRow :=
  [ { mnemonic := "CE_INIT", pattern := 0x01, mask := 0xFF },
    { mnemonic := "CE_ENC", pattern := 0x02, mask := 0xFF },
    { mnemonic := "CE_DEC", pattern := 0x03, mask := 0xFF },
    { mnemonic := "FS_INIT", pattern := 0x05, mask := 0xFF },
    { mnemonic := "FS_ENC", pattern := 0x06, mask := 0xFF },
    { mnemonic := "FS_DEC", pattern := 0x07, mask := 0xFF } ]

/-- Whether a row selects an opcode byte. -/
def OpcodeRow.selects (r : OpcodeRow) (op : BitVec 8) : Bool := op &&& r.mask == r.pattern

/-- The name of a command in the opcode map. -/
def Instr.mnemonic : Instr → String
  | .ceInit _ _ _ => "CE_INIT"
  | .ceEnc _ _ _ => "CE_ENC"
  | .ceDec _ _ _ => "CE_DEC"
  | .fsInit _ _ _ => "FS_INIT"
  | .fsEnc _ _ _ => "FS_ENC"
  | .fsDec _ _ _ => "FS_DEC"

/-! ## Assembler lines and pseudo-commands (R98, R99) -/

/-- A line of a program, already cut into its mnemonic and its operand numbers, assembled to the
tuple `op:a:b:len`; `b` = 0 for FS_INIT (R98). `none` where the line is none of R98's six. -/
def assembleLine (mnemonic : String) (operands : List Nat) : Option Transaction :=
  match operands with
  | [x, y, n] =>
    if mnemonic = "CE_INIT" then some (encode (.ceInit x y n))
    else if mnemonic = "CE_ENC" then some (encode (.ceEnc x y n))
    else if mnemonic = "CE_DEC" then some (encode (.ceDec x y n))
    else if mnemonic = "FS_ENC" then some (encode (.fsEnc x y n))
    else if mnemonic = "FS_DEC" then some (encode (.fsDec x y n))
    else none
  | [pw, n] => if mnemonic = "FS_INIT" then some (encode (.fsInit pw 0 n)) else none
  | _ => none

/-- The pseudo-commands of R99. -/
inductive PseudoCommand
  | ceKey (key len : Nat)
  | msgEnc (pw plen src dst len : Nat)
  | msgDec (pw plen src dst len : Nat)
deriving DecidableEq, Repr

/-- The expansion of a pseudo-command (R99). -/
def PseudoCommand.expand : PseudoCommand → List Instr
  | .ceKey key len => [.ceInit key 0 len]
  | .msgEnc pw plen src dst len => [.fsInit pw 0 plen, .fsEnc src dst len]
  | .msgDec pw plen src dst len => [.fsInit pw 0 plen, .fsDec src dst len]

/-- A pseudo-command from its mnemonic and its operand numbers (R99). -/
def PseudoCommand.ofTokens (mnemonic : String) (operands : List Nat) : Option PseudoCommand :=
  match operands with
  | [key, len] => if mnemonic = "CE_KEY" then some (.ceKey key len) else none
  | [pw, plen, src, dst, len] =>
    if mnemonic = "MSG_ENC" then some (.msgEnc pw plen src dst len)
    else if mnemonic = "MSG_DEC" then some (.msgDec pw plen src dst len)
    else none
  | _ => none

/-! ### A line as text (R98) -/

/-- The value of a hexadecimal digit. -/
def digitValue (c : Char) : Option Nat :=
  if c.isDigit then some (c.toNat - '0'.toNat)
  else if 'a' ≤ c ∧ c ≤ 'f' then some (c.toNat - 'a'.toNat + 10)
  else if 'A' ≤ c ∧ c ≤ 'F' then some (c.toNat - 'A'.toNat + 10)
  else none

/-- The number digits denote in a base, after digits that denote `acc`. -/
def numberFrom (base : Nat) : Nat → List Char → Option Nat
  | acc, [] => some acc
  | acc, c :: cs =>
    match digitValue c with
    | some d => if d < base then numberFrom base (acc * base + d) cs else none
    | none => none

/-- The number of an operand: `0x` hexadecimal, decimal, or the name of a buffer the program defines. What R98
leaves open of their spelling is DESIGN CHOICE (log entry 17). -/
def operandValue (buffers : List (String × Nat)) (cs : List Char) : Option Nat :=
  match cs with
  | [] => none
  | '0' :: 'x' :: hex => if hex = [] then none else numberFrom 16 0 hex
  | c :: _ =>
    if c.isDigit then numberFrom 10 0 cs
    else (buffers.find? fun b => b.1 == String.ofList cs).map (·.2)

/-- The pieces of a text between commas. -/
def splitCommas : List Char → List (List Char)
  | [] => [[]]
  | c :: cs =>
    match splitCommas cs with
    | [] => []
    | piece :: rest => if c = ',' then [] :: piece :: rest else (c :: piece) :: rest

/-- A line cut into its mnemonic and its operand numbers. DESIGN CHOICE (log entry 17): R98 says nothing of
spaces; every space after the mnemonic is dropped, one inside an operand too, so `0x1 00` is 0x100. -/
def readLine (buffers : List (String × Nat)) (line : String) : Option (String × List Nat) :=
  let text := line.toList.dropWhile (· == ' ')
  let mnemonic := String.ofList (text.takeWhile (· != ' '))
  let operands := splitCommas ((text.dropWhile (· != ' ')).filter (· != ' '))
  (operands.mapM (operandValue buffers)).map fun numbers => (mnemonic, numbers)

/-- The tuples a line assembles to: one for a command (R98), its expansion for a pseudo-command (R99). -/
def assemble (buffers : List (String × Nat)) (line : String) : Option (List Transaction) :=
  match readLine buffers line with
  | none => none
  | some (mnemonic, numbers) =>
    match assembleLine mnemonic numbers with
    | some t => some [t]
    | none => (PseudoCommand.ofTokens mnemonic numbers).map fun p => p.expand.map encode

end Sys2Proof
end

