-- ==== Sys2Proof/Machine/State.lean ====
section
/-! DEFINITION. The state of the block, its response port and its surroundings (10_state.md R20,
20_memory.md R61, 30_encoding.md R90), the reasons a step can stop, and the state after reset
(70_reset_and_hazards.md R260, R261). -/

namespace Sys2Proof.Machine

/-- The key schedule: the P-array and the four S-boxes (R20, R22, R23). -/
structure Schedule where
  p : Vector Word 18
  s1 : SBox
  s2 : SBox
  s3 : SBox
  s4 : SBox
deriving DecidableEq, Repr

/-- The all-zero schedule of a block that was reset and never keyed (R32, R33). -/
def Schedule.zero : Schedule :=
  { p := Vector.replicate 18 0
    s1 := Vector.replicate 256 0
    s2 := Vector.replicate 256 0
    s3 := Vector.replicate 256 0
    s4 := Vector.replicate 256 0 }

/-- The four values of `resp[1:0]` (R231). -/
inductive Response
  | ok
  | errIllegalCmd
  | errRange
  | errDigest
deriving DecidableEq, Repr

/-- DATA as the bytes that differ from what an unlisted address reads as, by rising address (R61). -/
abbrev Memory := List Host.Cell

/-- What a byte of DATA reads as that nothing has written: DESIGN CHOICE (log entry 5); the spec
leaves the contents to the host (R261). -/
def Memory.unlisted : Byte := 0

/-- What the outside world can do to the block, between commands (R90, R208, R260). -/
inductive HostInput
  /-- the host presents a command on the port (R90) -/
  | command (t : Transaction)
  /-- the host asserts the reset input, the block being idle (R260) -/
  | assertReset
  /-- the host writes bytes of DATA, the first at `addr` (R61, R208) -/
  | writeData (addr : Nat) (bytes : List Byte)
deriving DecidableEq, Repr

/-- Everything the spec gives the machine (INVENTORY.md, State). -/
structure State where
  /-- `P`, `S1`..`S4` (R22, R23) -/
  sched : Schedule
  /-- the weak-key flag, constant 0 (R25) -/
  wk : Bool
  /-- the feedback register (R26) -/
  fb : Block
  /-- DATA (R61) -/
  mem : Memory
  /-- the response port: `none` = no response pending (R90, R231, R261) -/
  resp : Option Response
  /-- the host inputs not yet taken, oldest first (R90; log entry 6) -/
  port : List HostInput
  /-- the OPEN parameters of this machine (R5); the model's own field, never changed -/
  cfg : Config
deriving DecidableEq, Repr

/-- Why a step stops. No command stops (R231). -/
inductive Fault
  /-- Raised by a host write to an address DATA does not have (R61); safe: no such write exists. -/
  | hostWriteOutsideData
deriving DecidableEq, Repr

/-- Why an instruction has no meaning. No arm of `exec` answers this. -/
inductive Refusal
  /-- An instruction whose meaning is not written yet; raised by no arm; safe. -/
  | notModelled (mnemonic : String)
deriving DecidableEq, Repr

/-- What a step answers. -/
abbrev Outcome := Host.Outcome State Fault Refusal

/-- The block with configuration `cfg` after hardware reset, DATA holding `mem` (R32, R261). -/
def State.resetWith (cfg : Config) (mem : Memory) : State :=
  { sched := Schedule.zero
    wk := Config.wkReset
    fb := cfg.fbReset
    mem := mem
    resp := none
    port := []
    cfg := cfg }

/-- The machine right after reset (R32, R261), nothing written to DATA and nothing on the port. -/
def State.reset : State := State.resetWith Config.atReset []

end Sys2Proof.Machine
end

