-- ==== Sys2Proof/Machine/Ops.lean ====
section
/-! DEFINITION. The named operations shared by the commands: bytes and words (00_scope.md R6 to R8),
DATA (20_memory.md R61 to R63), responding and raising (60_exceptions.md R231, R232, R239), the reset
input (70_reset_and_hazards.md R260), the host's writes, and the idle block. -/

namespace Sys2Proof.Machine

/-! ## Bytes and words -/

/-- `byte0(w) = w[31:24]`, the most significant byte (R6). -/
def byte0 (w : Word) : Byte := w.extractLsb' 24 8

/-- `byte1(w) = w[23:16]` (R6). -/
def byte1 (w : Word) : Byte := w.extractLsb' 16 8

/-- `byte2(w) = w[15:8]` (R6). -/
def byte2 (w : Word) : Byte := w.extractLsb' 8 8

/-- `byte3(w) = w[7:0]` (R6). -/
def byte3 (w : Word) : Byte := w.extractLsb' 0 8

/-- `be32`: the word of four bytes, the first the most significant (R8, R65). -/
def be32 (b0 b1 b2 b3 : Byte) : Word := b0 ++ b1 ++ b2 ++ b3

/-- `be32(b[0..4))`: the first word of a block. -/
def firstWord (b : Block) : Word := be32 b[0] b[1] b[2] b[3]

/-- `be32(b[4..8))`: the second word of a block. -/
def secondWord (b : Block) : Word := be32 b[4] b[5] b[6] b[7]

/-- `bytes4(x) || bytes4(y)` (R8). -/
def blockOfWords (x y : Word) : Block :=
  #v[byte0 x, byte1 x, byte2 x, byte3 x, byte0 y, byte1 y, byte2 y, byte3 y]

/-- `a xor b` on two blocks, byte by byte (R7). -/
def xorBlock (a b : Block) : Block := Vector.ofFn fun i => a[i] ^^^ b[i]

/-- `k[0..n) xor x` for a byte sequence `x` of length `n` at most that of `k` (R7, R163). -/
def xorBytes : List Byte → List Byte → List Byte
  | k :: ks, x :: xs => (k ^^^ x) :: xorBytes ks xs
  | _, _ => []

/-- The block of a byte sequence of length 8 (of a longer one, its first 8 bytes). -/
def blockOf (l : List Byte) : Block := Vector.ofFn fun i => l.getD i 0

/-- The block of eight bytes 00. -/
def zeroBlock : Block := Vector.replicate 8 0x00

/-- `FB_INIT`, the block `FF x 8` (R5). -/
def onesBlock : Block := Vector.replicate 8 0xFF

/-- `floor8(n)`: `n` truncated down to a multiple of 8 (R9). -/
def floor8 (n : Nat) : Nat := n - n % 8

/-! ## DATA -/

/-- The byte at an address. -/
def Memory.read : Memory → Nat → Byte
  | [], _ => Memory.unlisted
  | (b, w) :: m, a => if a = b then w else Memory.read m a

/-- A listed byte, or none where it is what an unlisted address reads as. -/
def Memory.cell (a : Nat) (v : Byte) : Memory := if v = Memory.unlisted then [] else [(a, v)]

/-- Write one byte, keeping the canonical form. -/
def Memory.write : Memory → Nat → Byte → Memory
  | [], a, v => Memory.cell a v
  | (b, w) :: m, a, v =>
    if a < b then Memory.cell a v ++ (b, w) :: m
    else if a = b then Memory.cell a v ++ m
    else (b, w) :: Memory.write m a v

/-- The canonical form, every address being at least `lo`: addresses strictly rising, no entry equal
to what an unlisted address reads as. -/
def Memory.wfFrom : Nat → Memory → Bool
  | _, [] => true
  | lo, (b, w) :: m => decide (lo ≤ b) && decide (w ≠ Memory.unlisted) && Memory.wfFrom (b + 1) m

/-- The canonical form of DATA. -/
def Memory.wf (m : Memory) : Bool := Memory.wfFrom 0 m

/-- Every listed address is one DATA has: below `2^aw` (R61). -/
def Memory.within (aw : Nat) (m : Memory) : Bool := m.all fun c => decide (c.1 < 2 ^ aw)

/-- `MemRead(addr, n)`: `n` bytes by rising address, none for `n = 0` (R62). -/
def memRead (m : Memory) (addr : Nat) : Nat → List Byte
  | 0 => []
  | n + 1 => m.read addr :: memRead m (addr + 1) n

/-- `MemWrite(addr, n, v)`, `n` the length of `v`: `v[i]` goes to `addr + i` and no other byte changes
(R63). -/
def memWrite (m : Memory) (addr : Nat) : List Byte → Memory
  | [] => m
  | v :: vs => memWrite (m.write addr v) (addr + 1) vs

/-! ## State updates -/

/-- `P, S1..S4 <- sched`. -/
def State.setSched (s : State) (sched : Schedule) : State := { s with sched := sched }

/-- `FB <- fb`. -/
def State.setFb (s : State) (fb : Block) : State := { s with fb := fb }

/-- DATA becomes `mem`. -/
def State.setMem (s : State) (mem : Memory) : State := { s with mem := mem }

/-- The response port presents `r`. -/
def State.setResp (s : State) (r : Option Response) : State := { s with resp := r }

/-- The host inputs still to be taken. -/
def State.setPort (s : State) (port : List HostInput) : State := { s with port := port }

/-! ## Ending a command (R231, R232, R239) -/

/-- The code on `resp[1:0]` (R231). -/
def Response.code : Response → BitVec 2
  | .ok => 0
  | .errIllegalCmd => 1
  | .errRange => 2
  | .errDigest => 3

/-- `respond OK`: the command was performed to the end (R10, R231). -/
def respondOk (s : State) : State := s.setResp (some .ok)

/-- `raise E`, the one way an error is taken (R10, R232, R239): the command stops where it stands, `s`
being what the steps already performed left, and the block presents `E`. Nothing is saved, no
control goes anywhere, and there is nothing to return from. -/
def raiseError (e : Response) (s : State) : State := s.setResp (some e)

/-! ## The block between commands -/

/-- The block idle: it performs nothing except in answer to the host (R90). -/
def stayIdle (s : State) : Outcome := .next s

/-- The reset input, asserted while the block is idle (R260, R261): the persistent state takes its reset
values, no response is pending, DATA is not touched. -/
def resetBlock (s : State) : Outcome :=
  .next { s with sched := Schedule.zero, wk := Config.wkReset, fb := s.cfg.fbReset, resp := none }

/-- The host writes bytes of DATA between commands (R61, R208). DATA has no address from `2^AW` up. -/
def hostWrite (addr : Nat) (bytes : List Byte) (s : State) : Outcome :=
  if bytes.length = 0 || decide (addr + bytes.length ≤ 2 ^ s.cfg.aw) then
    .next (s.setMem (memWrite s.mem addr bytes))
  else .fault .hostWriteOutsideData

/-- A transaction whose `op` names no command: no memory access, no state change, ERR_ILLEGAL_CMD,
whatever the operands (R96, R233). -/
def answerIllegal (s : State) : Outcome := .next (raiseError .errIllegalCmd s)

end Sys2Proof.Machine
end

