-- ==== Sys2Proof/Machine/Flags.lean ====
section
/-! DEFINITION. The block's one flag (10_state.md R25). No command computes a flag: addition and
exclusive-or record no carry, overflow, zero or sign (00_scope.md R9, 40_cipher_engine.md R130). -/

namespace Sys2Proof.Machine

/-- `WK` after a schedule is built: no weak-key detection exists, the flag keeps its value (R25, R274;
D27). -/
def weakKeyAfterInit (wk : Bool) : Bool := wk

/-- A new schedule in the one Cipher Engine: `P`, `S1..S4` and, with them, `WK` (R2, R124, R167 step 3). -/
def loadSchedule (sched : Schedule) (s : State) : State :=
  { s with sched := sched, wk := weakKeyAfterInit s.wk }

end Sys2Proof.Machine
end

