-- ==== Sys2Proof/Machine/Operands.lean ====
section
/-! DEFINITION. Operands as windows of DATA, and the range check every command makes before anything
else (20_memory.md R64, 30_encoding.md R94, 60_exceptions.md R234). -/

namespace Sys2Proof.Machine

/-- The addresses `base` to `base + size - 1` (R64). -/
structure Window where
  base : Nat
  size : Nat
deriving DecidableEq, Repr

/-- A window fits when it is empty or ends at or below `2^AW`; the sum is a natural number and does not
wrap (R64, R94). -/
def Window.fits (aw : Nat) (w : Window) : Bool :=
  w.size == 0 || decide (w.base + w.size ≤ 2 ^ aw)

/-- Format K: the key window (`KEY + OFF`, `LEN`) (R94, R234). -/
def keyWindows (key off len : Nat) : List Window := [{ base := key + off, size := len }]

/-- Format B on CE_ENC and CE_DEC: (`SRC`, `floor8(LEN)`) and (`DST`, `floor8(LEN)`) (R94, R234). -/
def blockWindows (src dst len : Nat) : List Window :=
  [{ base := src, size := floor8 len }, { base := dst, size := floor8 len }]

/-- Format B on FS_ENC and FS_DEC: (`SRC`, `LEN`) and (`DST`, `LEN`) (R94, R234). -/
def streamWindows (src dst len : Nat) : List Window :=
  [{ base := src, size := len }, { base := dst, size := len }]

/-- Format W: the password window (`PW`, `LEN`); operand `b` names none (R94, R95, R234). -/
def passwordWindows (pw len : Nat) : List Window := [{ base := pw, size := len }]

/-- Whether every window of a command fits in DATA. -/
def windowsFit (aw : Nat) (ws : List Window) : Bool := ws.all (Window.fits aw)

/-- A command with its range check first: ERR_RANGE before any access and any state change when a
window does not fit, otherwise the command's body (R64, R234). -/
def rangeChecked (ws : List Window) (body : State → State) (s : State) : Outcome :=
  .next (if windowsFit s.cfg.aw ws then body s else raiseError .errRange s)

end Sys2Proof.Machine
end

