-- ==== Sys2Proof/Machine/CipherEngine.lean ====
section
/-! DEFINITION. The Cipher Engine (40_cipher_engine.md): F, ENCBLK, DECBLK, KEYMIX, FILL, and the
meanings of CE_INIT, CE_ENC, CE_DEC. -/

namespace Sys2Proof.Machine

/-! ## The round function and the block operations -/

/-- `F(x) = ((S1[byte0(x)] +wrap S2[byte1(x)]) ^ S3[byte2(x)]) +wrap S4[byte3(x)]` (R120; the grouping
is that of 90_conflicts.md C1). -/
def roundF (k : Schedule) (x : Word) : Word :=
  wrapAdd
    (wrapAdd (k.s1[(byte0 x).toNat]'(byte0 x).isLt) (k.s2[(byte1 x).toNat]'(byte1 x).isLt)
      ^^^ k.s3[(byte2 x).toNat]'(byte2 x).isLt)
    (k.s4[(byte3 x).toNat]'(byte3 x).isLt)

/-- Two rounds on (`hi`, `lo`): `lo ^= F(hi) ^ u`, then `hi ^= F(lo) ^ v` with the new `lo` (R121,
R122). -/
def doubleRound (k : Schedule) (u v : Word) (hl : Word × Word) : Word × Word :=
  let lo := hl.2 ^^^ (roundF k hl.1 ^^^ u)
  let hi := hl.1 ^^^ (roundF k lo ^^^ v)
  (hi, lo)

/-- The values of `i` in ENCBLK's loop (R121). -/
def encIndices : List (Fin 18) := [1, 3, 5, 7, 9, 11, 13, 15]

/-- The values of `i` in DECBLK's loop (R122). -/
def decIndices : List (Fin 18) := [16, 14, 12, 10, 8, 6, 4, 2]

/-- ENCBLK, one block (R121): the output is `lo` first, then `hi`. -/
def encBlk (k : Schedule) (b : Block) : Block :=
  let start := (firstWord b ^^^ k.p[0], secondWord b)
  let hl := encIndices.foldl (fun hl i => doubleRound k (k.p.get i) (k.p.get (i + 1)) hl) start
  blockOfWords (hl.2 ^^^ k.p[17]) hl.1

/-- DECBLK, one block (R122): the same rounds, the P-array from `P[17]` down to `P[0]`, the same swap of
the two words at the end. -/
def decBlk (k : Schedule) (b : Block) : Block :=
  let start := (firstWord b ^^^ k.p[17], secondWord b)
  let hl := decIndices.foldl (fun hl i => doubleRound k (k.p.get i) (k.p.get (i - 1)) hl) start
  blockOfWords (hl.2 ^^^ k.p[0]) hl.1

/-! ## The key schedule -/

/-- The byte at position `j` of the cyclic walk over the key (R125). -/
def walkByte (key : List Byte) (j : Nat) : Byte := key.getD (j % key.length) 0

/-- The key word `kw_i`: four bytes of the walk, big-endian (R125). -/
def keyWord (key : List Byte) (i : Nat) : Word :=
  be32 (walkByte key (4 * i)) (walkByte key (4 * i + 1)) (walkByte key (4 * i + 2))
    (walkByte key (4 * i + 3))

/-- KEYMIX (R125): `P[i] <- P[i] ^ kw_i` for i = 0 to 17; the S-boxes are not touched. -/
def keyMix (key : List Byte) (k : Schedule) : Schedule :=
  { k with p := Vector.ofFn fun i => k.p[i] ^^^ keyWord key i }

/-- The five arrays of the schedule. -/
inductive SchedArray
  | p
  | s1
  | s2
  | s3
  | s4
deriving DecidableEq, Repr

/-- One word written to an array of the schedule. -/
def writeSlot (k : Schedule) (arr : SchedArray) (i : Nat) (w : Word) : Schedule :=
  match arr with
  | .p => { k with p := k.p.setIfInBounds i w }
  | .s1 => { k with s1 := k.s1.setIfInBounds i w }
  | .s2 => { k with s2 := k.s2.setIfInBounds i w }
  | .s3 => { k with s3 := k.s3.setIfInBounds i w }
  | .s4 => { k with s4 := k.s4.setIfInBounds i w }

/-- One step of FILL on (`CHAIN`, schedule): encrypt the chain with the schedule as it is at this
moment, then put its two words in the next two slots (R127). -/
def fillStep (arr : SchedArray) (c : Block × Schedule) (i : Nat) : Block × Schedule :=
  let chain := encBlk c.2 c.1
  (chain, writeSlot (writeSlot c.2 arr (2 * i) (firstWord chain)) arr (2 * i + 1) (secondWord chain))

/-- `n` steps of FILL, over slots 0 to 2n - 1 of one array (R127). -/
def fillArray (c : Block × Schedule) (stage : SchedArray × Nat) : Block × Schedule :=
  (List.range stage.2).foldl (fillStep stage.1) c

/-- The stages of FILL in their order: 9 encryptions for the P-array, then 128 for each S-box (R127). -/
def fillStages : List (SchedArray × Nat) :=
  [(.p, 9), (.s1, 128), (.s2, 128), (.s3, 128), (.s4, 128)]

/-- FILL (R127): the chain starts at `00 x 8` and is carried from stage to stage. -/
def fill (k : Schedule) : Schedule := (fillStages.foldl fillArray (zeroBlock, k)).2

/-- The schedule CE_INIT computes from the key bytes (R124): the constants, then KEYMIX and FILL, which
an empty key goes without. -/
def keySchedule (key : List Byte) : Schedule :=
  if key.length = 0 then Schedule.constants else fill (keyMix key Schedule.constants)

/-! ## The commands -/

/-- Meaning of CE_INIT (R124). -/
def execCeInit (key off len : Nat) (s : State) : Outcome :=
  rangeChecked (keyWindows key off len)
    (fun s => respondOk (loadSchedule (keySchedule (memRead s.mem (key + off) len)) s)) s

/-- One block of a buffer: read whole, then written (R67, R68). -/
def blockAt (f : Block → Block) (src dst o : Nat) (m : Memory) : Memory :=
  memWrite m (dst + o) (f (blockOf (memRead m (src + o) 8))).toList

/-- The blocks at offsets 0, 8, .., `floor8(len) - 8`, in that order (R67, R68, R128). -/
def blockLoop (f : Block → Block) (src dst len : Nat) (m : Memory) : Memory :=
  (List.range (len / 8)).foldl (fun m n => blockAt f src dst (8 * n) m) m

/-- Meaning of CE_ENC (R128): trailing 1 to 7 bytes are neither read nor written. -/
def execCeEnc (src dst len : Nat) (s : State) : Outcome :=
  rangeChecked (blockWindows src dst len)
    (fun s => respondOk (s.setMem (blockLoop (encBlk s.sched) src dst len s.mem))) s

/-- Meaning of CE_DEC (R129). -/
def execCeDec (src dst len : Nat) (s : State) : Outcome :=
  rangeChecked (blockWindows src dst len)
    (fun s => respondOk (s.setMem (blockLoop (decBlk s.sched) src dst len s.mem))) s

end Sys2Proof.Machine
end

