-- ==== Sys2Proof/Machine/Ripemd256.lean ====
section
/-! DEFINITION. RIPEMD-256 (50_collaborators.md R204), the instantiation of the digest port that
reproduces the source's vectors (R203). It is not part of the block. -/

namespace Sys2Proof.Machine

/-- The four boolean functions `f1` to `f4`. -/
def ripemdF (j : Nat) (x y z : Word) : Word :=
  match j with
  | 1 => x ^^^ y ^^^ z
  | 2 => (x &&& y) ||| (~~~x &&& z)
  | 3 => (x ||| ~~~y) ^^^ z
  | _ => (x &&& z) ||| (y &&& ~~~z)

/-- The constants, message word orders and rotation amounts of one round: left line, right line. -/
structure RipemdRound where
  kl : Word
  kr : Word
  rl : List Nat
  rr : List Nat
  sl : List Nat
  sr : List Nat
deriving DecidableEq, Repr

/-- Round 1. -/
def ripemdRound1 : RipemdRound :=
  { kl := 0x00000000
    kr := 0x50A28BE6
    rl := [0, 1, 2, 3, 4, 5, 6, 7, 8, 9, 10, 11, 12, 13, 14, 15]
    rr := [5, 14, 7, 0, 9, 2, 11, 4, 13, 6, 15, 8, 1, 10, 3, 12]
    sl := [11, 14, 15, 12, 5, 8, 7, 9, 11, 13, 14, 15, 6, 7, 9, 8]
    sr := [8, 9, 9, 11, 13, 15, 15, 5, 7, 7, 8, 11, 14, 14, 12, 6] }

/-- Round 2. -/
def ripemdRound2 : RipemdRound :=
  { kl := 0x5A827999
    kr := 0x5C4DD124
    rl := [7, 4, 13, 1, 10, 6, 15, 3, 12, 0, 9, 5, 2, 14, 11, 8]
    rr := [6, 11, 3, 7, 0, 13, 5, 10, 14, 15, 8, 12, 4, 9, 1, 2]
    sl := [7, 6, 8, 13, 11, 9, 7, 15, 7, 12, 15, 9, 11, 7, 13, 12]
    sr := [9, 13, 15, 7, 12, 8, 9, 11, 7, 7, 12, 7, 6, 15, 13, 11] }

/-- Round 3. -/
def ripemdRound3 : RipemdRound :=
  { kl := 0x6ED9EBA1
    kr := 0x6D703EF3
    rl := [3, 10, 14, 4, 9, 15, 8, 1, 2, 7, 0, 6, 13, 11, 5, 12]
    rr := [15, 5, 1, 3, 7, 14, 6, 9, 11, 8, 12, 2, 10, 0, 4, 13]
    sl := [11, 13, 6, 7, 14, 9, 13, 15, 14, 8, 13, 6, 5, 12, 7, 5]
    sr := [9, 7, 15, 11, 8, 6, 6, 14, 12, 13, 5, 14, 13, 13, 7, 5] }

/-- Round 4. -/
def ripemdRound4 : RipemdRound :=
  { kl := 0x8F1BBCDC
    kr := 0x00000000
    rl := [1, 9, 11, 10, 0, 8, 12, 4, 13, 3, 7, 15, 14, 5, 6, 2]
    rr := [8, 6, 4, 1, 3, 11, 15, 0, 5, 12, 2, 13, 9, 7, 10, 14]
    sl := [11, 12, 14, 15, 14, 15, 9, 8, 9, 14, 5, 6, 8, 6, 5, 12]
    sr := [15, 5, 8, 11, 14, 14, 6, 14, 6, 9, 12, 9, 12, 5, 15, 8] }

/-- The working words of one line. -/
structure RipemdLine where
  a : Word
  b : Word
  c : Word
  d : Word
deriving DecidableEq, Repr

/-- One step of a line: `T <- rol(A + f(B, C, D) + x + k, s); A <- D; D <- C; C <- B; B <- T`. -/
def ripemdStep (j : Nat) (k : Word) (t : RipemdLine) (xs : Word × Nat) : RipemdLine :=
  { a := t.d
    d := t.c
    c := t.b
    b := (t.a + ripemdF j t.b t.c t.d + xs.1 + k).rotateLeft xs.2 }

/-- The sixteen steps of one round of one line, the message words taken in the order `order`. -/
def ripemdSteps (j : Nat) (k : Word) (order rot : List Nat) (x : List Word) (t : RipemdLine) :
    RipemdLine :=
  ((order.map fun i => x.getD i 0).zip rot).foldl (ripemdStep j k) t

/-- A 4-byte sequence read little-endian. -/
def le32 (b : List Byte) : Word := be32 (b.getD 3 0) (b.getD 2 0) (b.getD 1 0) (b.getD 0 0)

/-- The four bytes of a word, least significant first. -/
def leBytes (w : Word) : List Byte := [byte3 w, byte2 w, byte1 w, byte0 w]

/-- The 16 little-endian words of a 64-byte piece of the message. -/
def ripemdWords (piece : List Byte) : List Word :=
  (List.range 16).map fun i => le32 (piece.drop (4 * i))

/-- The padded message: 0x80, the fewest zero bytes, the bit length little-endian in 8 bytes. -/
def ripemdPad (msg : List Byte) : List Byte :=
  msg ++ 0x80 :: List.replicate ((119 - msg.length % 64) % 64) 0 ++
    (List.range 8).map fun i => BitVec.ofNat 8 (8 * msg.length / 256 ^ i)

/-- The eight words of the state. -/
structure RipemdState where
  left : RipemdLine
  right : RipemdLine
deriving DecidableEq, Repr

/-- The initial state `h0` to `h7`. -/
def ripemdStart : RipemdState :=
  { left := { a := 0x67452301, b := 0xEFCDAB89, c := 0x98BADCFE, d := 0x10325476 }
    right := { a := 0x76543210, b := 0xFEDCBA98, c := 0x89ABCDEF, d := 0x01234567 } }

/-- One round of both lines. -/
def ripemdBoth (j : Nat) (r : RipemdRound) (x : List Word) (h : RipemdState) : RipemdState :=
  { left := ripemdSteps j r.kl r.rl r.sl x h.left
    right := ripemdSteps (5 - j) r.kr r.rr r.sr x h.right }

/-- Exchange `A` and `A'`. -/
def RipemdState.swapA (h : RipemdState) : RipemdState :=
  { left := { h.left with a := h.right.a }, right := { h.right with a := h.left.a } }

/-- Exchange `B` and `B'`. -/
def RipemdState.swapB (h : RipemdState) : RipemdState :=
  { left := { h.left with b := h.right.b }, right := { h.right with b := h.left.b } }

/-- Exchange `C` and `C'`. -/
def RipemdState.swapC (h : RipemdState) : RipemdState :=
  { left := { h.left with c := h.right.c }, right := { h.right with c := h.left.c } }

/-- Exchange `D` and `D'`. -/
def RipemdState.swapD (h : RipemdState) : RipemdState :=
  { left := { h.left with d := h.right.d }, right := { h.right with d := h.left.d } }

/-- Word-by-word sum of two lines. -/
def RipemdLine.add (t u : RipemdLine) : RipemdLine :=
  { a := t.a + u.a, b := t.b + u.b, c := t.c + u.c, d := t.d + u.d }

/-- One 64-byte piece of the padded message. -/
def ripemdPiece (h : RipemdState) (piece : List Byte) : RipemdState :=
  let x := ripemdWords piece
  let h1 := (ripemdBoth 1 ripemdRound1 x h).swapA
  let h2 := (ripemdBoth 2 ripemdRound2 x h1).swapB
  let h3 := (ripemdBoth 3 ripemdRound3 x h2).swapC
  let h4 := (ripemdBoth 4 ripemdRound4 x h3).swapD
  { left := h.left.add h4.left, right := h.right.add h4.right }

/-- The bytes of a line, each word least significant byte first. -/
def RipemdLine.bytes (t : RipemdLine) : List Byte :=
  leBytes t.a ++ leBytes t.b ++ leBytes t.c ++ leBytes t.d

/-- RIPEMD-256 of a message (R204). -/
def ripemd256 (msg : List Byte) : Digest :=
  let padded := ripemdPad msg
  let h := (List.range (padded.length / 64)).foldl
    (fun h i => ripemdPiece h ((padded.drop (64 * i)).take 64)) ripemdStart
  let out := h.left.bytes ++ h.right.bytes
  Vector.ofFn fun i => out.getD i 0

end Sys2Proof.Machine
end

