-- ==== Sys2Proof/Machine/FeedbackSession.lean ====
section
/-! DEFINITION. The Feedback Session controller (41_feedback_session.md): FS_DISPATCH, the three
rounds, the digest port, and the meanings of FS_INIT, FS_ENC, FS_DEC. -/

namespace Sys2Proof.Machine

/-! ## Round dispatch and rounds -/

/-- The direction of a stream command (R160). -/
inductive Direction
  | enc
  | dec
deriving DecidableEq, Repr

/-- The round FS_DISPATCH chooses (R160). -/
inductive Round
  | fullEnc
  | fullDec
  | tail
  | done
deriving DecidableEq, Repr

/-- FS_DISPATCH (R160) with `r` bytes not yet processed. -/
def fsDispatch (dir : Direction) (r : Nat) : Round :=
  if 8 ≤ r then
    match dir with
    | .enc => .fullEnc
    | .dec => .fullDec
  else if r = 0 then .done
  else .tail

/-- FS_FULL_ENC (R161): the output block and the new FB. -/
def fsFullEnc (k : Schedule) (fb x : Block) : Block × Block :=
  let buf := xorBlock fb x
  let y := encBlk k buf
  (y, xorBlock fb y)

/-- FS_FULL_DEC (R162): the output block and the new FB. -/
def fsFullDec (k : Schedule) (fb c : Block) : Block × Block :=
  let cand := xorBlock fb c
  let guess := decBlk k c
  let p := xorBlock fb guess
  (p, cand)

/-- FS_TAIL (R163): the output bytes, as many as the input's 1 to 7, and the new FB. -/
def fsTail (k : Schedule) (fb : Block) (x : List Byte) : List Byte × Block :=
  let ks := encBlk k fb
  let y := xorBytes ks.toList x
  (y, xorBlock fb ks)

/-! ## Streams -/

/-- A full round on the chunk at offset `o` of the windows: read whole, then written (R68, R164,
R165). -/
def fullRoundAt (round : Schedule → Block → Block → Block × Block) (src dst o : Nat) (s : State) :
    State :=
  let out := round s.sched s.fb (blockOf (memRead s.mem (src + o) 8))
  (s.setMem (memWrite s.mem (dst + o) out.1.toList)).setFb out.2

/-- The tail round on the `n` bytes at offset `o` of the windows (R68, R164, R165). -/
def tailRoundAt (src dst o n : Nat) (s : State) : State :=
  let out := fsTail s.sched s.fb (memRead s.mem (src + o) n)
  (s.setMem (memWrite s.mem (dst + o) out.1)).setFb out.2

/-- The rounds of a stream command from offset `o`, `r` bytes not yet processed, at most `fuel` rounds
(R160, R164, R165). -/
def streamLoop (dir : Direction) (src dst : Nat) : (fuel o r : Nat) → State → State
  | 0, _, _, s => s
  | fuel + 1, o, r, s =>
    match fsDispatch dir r with
    | .fullEnc => streamLoop dir src dst fuel (o + 8) (r - 8) (fullRoundAt fsFullEnc src dst o s)
    | .fullDec => streamLoop dir src dst fuel (o + 8) (r - 8) (fullRoundAt fsFullDec src dst o s)
    | .tail => tailRoundAt src dst o r s
    | .done => s

/-- All the rounds of a stream of `len` bytes: `len / 8 + 1` are always enough (R160). -/
def runStream (dir : Direction) (src dst len : Nat) (s : State) : State :=
  streamLoop dir src dst (len / 8 + 1) 0 len s

/-- The same rounds over a byte sequence instead of DATA, at most `fuel` of them: the output bytes and
the final FB (R160, R167 step 6; the by-value reading of 20_memory.md R69). -/
def byteLoop (dir : Direction) (k : Schedule) : (fuel : Nat) → Block → List Byte → List Byte × Block
  | 0, fb, _ => ([], fb)
  | fuel + 1, fb, m =>
    match fsDispatch dir m.length with
    | .fullEnc =>
      let out := fsFullEnc k fb (blockOf m)
      let rest := byteLoop dir k fuel out.2 (m.drop 8)
      (out.1.toList ++ rest.1, rest.2)
    | .fullDec =>
      let out := fsFullDec k fb (blockOf m)
      let rest := byteLoop dir k fuel out.2 (m.drop 8)
      (out.1.toList ++ rest.1, rest.2)
    | .tail => fsTail k fb m
    | .done => ([], fb)

/-- `Enc(s, fb, m)` and `Dec(s, fb, m)` (R166): the output stream and the final FB. -/
def streamBytes (dir : Direction) (k : Schedule) (fb : Block) (m : List Byte) : List Byte × Block :=
  byteLoop dir k (m.length / 8 + 1) fb m

/-- Meaning of FS_ENC (R164). -/
def execFsEnc (src dst len : Nat) (s : State) : Outcome :=
  rangeChecked (streamWindows src dst len) (fun s => respondOk (runStream .enc src dst len s)) s

/-- Meaning of FS_DEC (R165). -/
def execFsDec (src dst len : Nat) (s : State) : Outcome :=
  rangeChecked (streamWindows src dst len) (fun s => respondOk (runStream .dec src dst len s)) s

/-! ## Session start -/

/-- What the digest port answers to a password: 32 bytes, or `none` for `fail` (R200 to R203). -/
def digestAnswer (port : DigestPort) (pw : List Byte) : Option Digest :=
  match port with
  | .unspecified => Config.freeDigest pw
  | .ripemd256 => some (ripemd256 pw)
  | .answers table =>
    match table.find? (fun row => decide (row.1 = pw)) with
    | some row => row.2
    | none => none

/-- FS_INIT from step 3 on, the digest being `dg` and FB being `FF x 8` (R167): a new schedule (3), FB
encrypted under it (4), saved (5), the FS_ENC rounds over the digest in place with their output
discarded (6), FB restored (7). -/
def keySession (dg : Digest) (s : State) : State :=
  let s3 := loadSchedule (keySchedule dg.toList) s
  let s4 := s3.setFb (encBlk s3.sched s3.fb)
  let save := s4.fb
  let step6 := streamBytes .enc s4.sched s4.fb dg.toList
  let s6 := s4.setFb step6.2
  respondOk (s6.setFb save)

/-- FS_INIT after its range check (R167): FB is reset (1), the digest port is asked (2), and its failure
is ERR_DIGEST with FB left at `FF x 8` (R202, R235). -/
def startSession (pw len : Nat) (s : State) : State :=
  let password := memRead s.mem pw len
  let s1 := s.setFb onesBlock
  match digestAnswer s1.cfg.digest password with
  | none => raiseError .errDigest s1
  | some dg => keySession dg s1

/-- Meaning of FS_INIT (R167): operand `b` is ignored, whatever it is (R95). -/
def execFsInit (pw _ignored len : Nat) (s : State) : Outcome :=
  rangeChecked (passwordWindows pw len) (startSession pw len) s

end Sys2Proof.Machine
end

