-- ==== Sys2Proof/Machine/Dispatch.lean ====
section
/-! DEFINITION. One arm per command: its meaning (30_encoding.md R93). -/

namespace Sys2Proof.Machine

def exec (i : Instr) (s : State) : Host.Outcome State Fault Refusal :=
  match i with
  | .ceInit key off len => Sys2Proof.Machine.execCeInit key off len s
  | .ceEnc src dst len => Sys2Proof.Machine.execCeEnc src dst len s
  | .ceDec src dst len => Sys2Proof.Machine.execCeDec src dst len s
  | .fsInit pw ignored len => Sys2Proof.Machine.execFsInit pw ignored len s
  | .fsEnc src dst len => Sys2Proof.Machine.execFsEnc src dst len s
  | .fsDec src dst len => Sys2Proof.Machine.execFsDec src dst len s

end Sys2Proof.Machine
end

