-- ==== Sys2Proof/Machine/Step.lean ====
section
/-! DEFINITION. One step: the oldest pending host input, taken whole (00_scope.md R12, 30_encoding.md
R90). -/

namespace Sys2Proof.Machine

/-- One step of the machine. With nothing pending the block is idle; a command is decoded and performed
whole, an illegal one answered (R90, R96, R233); the reset input and the host's writes to DATA happen
between commands (R208, R260). -/
def step (s : State) : Host.Outcome State Fault Refusal :=
  match s.port with
  | [] => stayIdle s
  | .assertReset :: rest => resetBlock (s.setPort rest)
  | .writeData addr bytes :: rest => hostWrite addr bytes (s.setPort rest)
  | .command t :: rest =>
    match decode s.cfg.aw t with
    | .ok i => exec i (s.setPort rest)
    | .error _ => answerIllegal (s.setPort rest)

/-- The state with one command, its bits numbered as the opcode table numbers them, placed where `step`
takes its next input: first on the port, as if the host had just presented it (R90; log entry 6). -/
def State.withFetchWord (s : State) (nbits w : Nat) : State :=
  s.setPort (.command (Transaction.ofBits s.cfg.aw (w % 2 ^ nbits)) :: s.port)

end Sys2Proof.Machine
end

