-- ==== Sys2Proof/Machine/HostProgram.lean ====
section
/-! DEFINITION. The host issuing several commands and branching on the responses (30_encoding.md R99,
50_collaborators.md R208, 60_exceptions.md R243). -/

namespace Sys2Proof.Machine

/-- The host issues commands one after another and stops at the first response that is not OK (R99). -/
def issueAll : List Instr → State → Outcome
  | [], s => .next s
  | i :: is, s =>
    match exec i s with
    | .next t => if t.resp = some .ok then issueAll is t else .next t
    | .fault r => .fault r
    | .refused r => .refused r

/-- A pseudo-command: its expansion, issued (R99). -/
def runPseudo (p : PseudoCommand) (s : State) : Outcome := issueAll p.expand s

end Sys2Proof.Machine
end

