-- ==== Sys2Proof/Safety.lean ====
section
/-! DEFINITION. The terms claims are stated in: the invariant of the machine, windows and frames, and
readings of the spec's pseudocode a claim compares the model with. -/

namespace Sys2Proof.Machine

/-- The invariant every step keeps: DATA in its canonical form and inside its `2^AW` bytes (20_memory.md
R61), `WK` the constant 0 (10_state.md R25), and `AW >= 1` (92_eei_decisions.md D4). -/
abbrev Inv (s : State) : Prop :=
  s.mem.wf = true ∧ s.mem.within s.cfg.aw = true ∧ s.wk = false ∧ 1 ≤ s.cfg.aw

/-- A window fits in DATA: it is empty or ends at or below `2^AW` (20_memory.md R64). -/
abbrev FitsData (s : State) (base n : Nat) : Prop := n = 0 ∨ base + n ≤ 2 ^ s.cfg.aw

/-- A window does not fit in DATA: the condition of ERR_RANGE (60_exceptions.md R234). -/
abbrev PastData (s : State) (base n : Nat) : Prop := 0 < n ∧ 2 ^ s.cfg.aw < base + n

/-- The windows each command checks, as pairs (base, n): the table of 60_exceptions.md R234. -/
def checkedWindows : Instr → List (Nat × Nat)
  | .ceInit key off len => [(key + off, len)]
  | .ceEnc src dst len => [(src, floor8 len), (dst, floor8 len)]
  | .ceDec src dst len => [(src, floor8 len), (dst, floor8 len)]
  | .fsInit pw _ len => [(pw, len)]
  | .fsEnc src dst len => [(src, len), (dst, len)]
  | .fsDec src dst len => [(src, len), (dst, len)]

/-- Every byte outside the window reads as before. -/
def SameOutside (m m' : Memory) (base n : Nat) : Prop :=
  ∀ a, a < base ∨ base + n ≤ a → m'.read a = m.read a

/-- Source and destination windows for which the by-value reading holds: the destination starts at or
below the source (in place included), or past its end (20_memory.md R69 (a), (b)). -/
abbrev ByValueWindows (src dst n : Nat) : Prop := dst ≤ src ∨ src + n ≤ dst

/-- Two windows that share no address; an empty window shares none with any. -/
abbrev DisjointWindows (a n b m : Nat) : Prop := n = 0 ∨ m = 0 ∨ a + n ≤ b ∨ b + m ≤ a

/-- The bytes of a window, by rising address. -/
def windowBytes (m : Memory) (base n : Nat) : List Byte := (List.range n).map fun j => m.read (base + j)

/-- The two halves of a block exchanged (40_cipher_engine.md R123). -/
def swapHalves (b : Block) : Block := #v[b[4], b[5], b[6], b[7], b[0], b[1], b[2], b[3]]

/-- One key word as R125's inner loop builds it from position `j`: shift left one byte, append the next
key byte, four times. -/
def keyWordLoop (key : List Byte) (j : Nat) : Nat → Word → Word
  | 0, kw => kw
  | t + 1, kw =>
    keyWordLoop key (j + 1) t
      (BitVec.ofNat 32 ((kw.toNat * 256 + (key.getD (j % key.length) 0).toNat) % 2 ^ 32))

/-- KEYMIX as R125's outer loop writes it: entry `i`, then the rest with the walk 4 bytes further. -/
def keyMixLoop (key : List Byte) : (n i j : Nat) → Vector Word 18 → Vector Word 18
  | 0, _, _, p => p
  | n + 1, i, j, p =>
    keyMixLoop key n (i + 1) (j + 4) (p.setIfInBounds i (p.toList.getD i 0 ^^^ keyWordLoop key j 4 0))

/-- The words of the schedule in the order FILL writes them: `P[0..17]`, then `S1` to `S4` (R127). -/
def slotWord (k : Schedule) (j : Nat) : Word :=
  if j < 18 then k.p.toList.getD j 0
  else if j < 274 then k.s1.toList.getD (j - 18) 0
  else if j < 530 then k.s2.toList.getD (j - 274) 0
  else if j < 786 then k.s3.toList.getD (j - 530) 0
  else k.s4.toList.getD (j - 786) 0

/-- The opcode byte of the host input a step takes next, where it is a command. -/
def nextOp (s : State) : Option (BitVec 8) :=
  match s.port with
  | .command t :: _ => some t.op
  | _ => none

/-- Whether the host input a step takes next is the reset input. -/
def nextIsReset (s : State) : Bool :=
  match s.port with
  | .assertReset :: _ => true
  | _ => false

end Sys2Proof.Machine
end

