-- ==== Sys2Proof/Certificates/Slice0/Obligations.lean ====
section
/-! DEFINITION. The statements for the provers. Each docstring names the rule of the spec it formalises. -/

open Sys2Proof Sys2Proof.Machine

/-! ## Encoding -/

/-- Decode and encode agree for all six commands, every operand at every value the wires admit, through the
transaction and through the number of its `8 + 3 x AW` bits (30_encoding.md R91, R93, R94; the order of the
bits is log entry 8). -/
def Obligations.DecodingAnEncodedCommandGivesItBack : Prop :=
  ∀ (aw : Nat) (i : Instr), WellFormed aw i = true →
    decode aw (encode i) = .ok i ∧
      decode aw (Transaction.ofBits aw ((encode i).toBits aw)) = .ok i ∧
      (encode i).toBits aw < 2 ^ commandBits aw

/-- Every transaction that decodes has one meaning: a well-formed command whose encoding it is
(R90, R91, R94). -/
def Obligations.EncodingADecodedCommandGivesItBack : Prop :=
  ∀ (aw : Nat) (t : Transaction) (i : Instr), t.fits aw = true → decode aw t = .ok i →
    encode i = t ∧ WellFormed aw i = true

/-- The decoder follows the opcode map: a row that selects the opcode byte gives that row's command, whatever
the operands; where no row selects it, the command is illegal; six of the 256 values are commands, 250
illegal (R93, R96). -/
def Obligations.DecoderFollowsTheOpcodeMap : Prop :=
  (∀ (aw : Nat) (t : Transaction),
    (∀ r ∈ opcodeRows, r.selects t.op = true → ∃ i, decode aw t = .ok i ∧ i.mnemonic = r.mnemonic) ∧
      ((∀ r ∈ opcodeRows, r.selects t.op = false) → ∃ e, decode aw t = .error e)) ∧
    (List.range 256).countP
      (fun n => opcodeRows.any fun r => r.selects (BitVec.ofNat 8 n)) = 6

/-- The six opcode bytes of R93, written out, with operands of R98's examples. -/
def Obligations.SpecWordsDecode : Prop :=
  decode 16 { op := 0x01, a := 0x10, b := 2, len := 3 } = .ok (.ceInit 0x10 2 3) ∧
    decode 16 { op := 0x02, a := 0x100, b := 0x200, len := 0x17 } = .ok (.ceEnc 0x100 0x200 23) ∧
    decode 16 { op := 0x03, a := 0x200, b := 0x300, len := 0x10 } = .ok (.ceDec 0x200 0x300 16) ∧
    decode 16 { op := 0x05, a := 0, b := 0, len := 6 } = .ok (.fsInit 0 0 6) ∧
    decode 16 { op := 0x06, a := 0x100, b := 0x200, len := 0x37 } = .ok (.fsEnc 0x100 0x200 55) ∧
    decode 16 { op := 0x07, a := 0x200, b := 0x200, len := 0x37 } = .ok (.fsDec 0x200 0x200 55) ∧
    decode 16 { op := 0x81, a := 0x100, b := 0x200, len := 8 } = .error .reservedBitsSet ∧
    decode 16 { op := 0x04, a := 0, b := 0, len := 0 } = .error .noFunction

/-! ## The step -/

/-- A step runs the decoded command, with the input taken off the port and nothing else around `exec`
(30_encoding.md R90; the port as a list is the model's choice, log entry 6). The second clause, a word placed by
`withFetchWord` and run by the very next step, is wholly the model's choice: the placement first on the port is
log entry 6, the numbering of the bits in `Transaction.ofBits` log entry 8. -/
def Obligations.StepRunsTheDecodedCommand : Prop :=
  (∀ (s : State) (t : Transaction) (rest : List HostInput) (i : Instr),
    s.port = .command t :: rest → decode s.cfg.aw t = .ok i → step s = exec i { s with port := rest }) ∧
    ∀ (s : State) (n w : Nat) (i : Instr),
      decode s.cfg.aw (Transaction.ofBits s.cfg.aw (w % 2 ^ n)) = .ok i →
        step (s.withFetchWord n w) = exec i s

/-- With nothing on the port the block performs nothing (R90). The rest is the model's choice: that an idle step is
a step at all (log entry 6), and that the response port still presents the last response after it (log entry 7,
unsafe). -/
def Obligations.IdleBlockDoesNothing : Prop :=
  ∀ s : State, s.port = [] → step s = .next s

/-- A command whose opcode byte is not one of the six is answered ERR_ILLEGAL_CMD, whatever the operands, in
range or not: nothing else changes (60_exceptions.md R233; 30_encoding.md R96). -/
def Obligations.IllegalCommandHasNoEffect : Prop :=
  ∀ (s : State) (t : Transaction) (rest : List HostInput), s.port = .command t :: rest →
    t.op ∉ ([0x01, 0x02, 0x03, 0x05, 0x06, 0x07] : List (BitVec 8)) →
    step s = .next { s with port := rest, resp := some .errIllegalCmd }

/-- Every command, legal or not, ends in a next state with exactly one response; ERR_ILLEGAL_CMD comes from
decode only and ERR_DIGEST from FS_INIT only (R231). -/
def Obligations.EveryCommandEndsWithOneResponse : Prop :=
  (∀ (s : State) (t : Transaction) (rest : List HostInput), s.port = .command t :: rest →
    ∃ u r, step s = .next u ∧ u.resp = some r ∧ u.port = rest ∧ u.cfg = s.cfg) ∧
    ∀ (i : Instr) (s : State), ∃ u r, exec i s = .next u ∧ u.resp = some r ∧ r ≠ .errIllegalCmd ∧
      (r = .errDigest → ∃ pw b len, i = .fsInit pw b len)

/-- The four codes on `resp[1:0]` (R231): all four values of the 2-bit field, each for one response. -/
def Obligations.ResponseCodesFillTheField : Prop :=
  (∀ c : BitVec 2, ∃ r : Response, r.code = c) ∧ (∀ r r' : Response, r.code = r'.code → r = r') ∧
    Response.code .ok = 0 ∧ Response.code .errIllegalCmd = 1 ∧ Response.code .errRange = 2 ∧
      Response.code .errDigest = 3

/-- Errors are precise: after ERR_ILLEGAL_CMD or ERR_RANGE only the response differs, after ERR_DIGEST also FB,
which is `FF x 8` (R233, R234, R235, R239). -/
def Obligations.ErrorsArePrecise : Prop :=
  ∀ (s u : State) (t : Transaction) (rest : List HostInput), s.port = .command t :: rest →
    step s = .next u →
    (u.resp = some .errIllegalCmd → u = { s with port := rest, resp := some .errIllegalCmd }) ∧
      (u.resp = some .errRange → u = { s with port := rest, resp := some .errRange }) ∧
      (u.resp = some .errDigest →
        u = { s with port := rest, fb := onesBlock, resp := some .errDigest })

/-- ERR_RANGE is answered exactly when a non-empty window of the command goes past the end of DATA, before any
effect; a command whose windows all fit, empty ones at any address included, answers OK, or ERR_DIGEST for an
FS_INIT (60_exceptions.md R234). -/
def Obligations.RangeErrorIsExact : Prop :=
  ∀ (i : Instr) (s : State),
    ((∃ w ∈ checkedWindows i, PastData s w.1 w.2) → exec i s = .next { s with resp := some .errRange }) ∧
      ((∀ w ∈ checkedWindows i, FitsData s w.1 w.2) → ∃ t, exec i s = .next t ∧
        (t.resp = some .ok ∨ t.resp = some .errDigest ∧ ∃ pw b len, i = .fsInit pw b len))

/-- The fixed order of errors: an illegal opcode byte with windows out of range answers ERR_ILLEGAL_CMD; an
FS_INIT whose window is out of range answers ERR_RANGE whatever the digest port would answer; an FS_INIT in range
whose digest port fails answers ERR_DIGEST (R237). -/
def Obligations.ErrorsHaveAFixedPriority : Prop :=
  (∀ (s : State) (t : Transaction) (rest : List HostInput), s.port = .command t :: rest →
    t.op ∉ ([0x01, 0x02, 0x03, 0x05, 0x06, 0x07] : List (BitVec 8)) →
    ∃ u, step s = .next u ∧ u.resp = some .errIllegalCmd) ∧
    (∀ (i : Instr) (s : State), (∃ w ∈ checkedWindows i, PastData s w.1 w.2) →
      ∀ port, ∃ u, exec i { s with cfg := { s.cfg with digest := port } } = .next u ∧
        u.resp = some .errRange ∧ u.fb = s.fb) ∧
    ∀ (s : State) (pw b len : Nat), FitsData s pw len →
      digestAnswer s.cfg.digest (windowBytes s.mem pw len) = none →
      ∃ u, exec (.fsInit pw b len) s = .next u ∧ u.resp = some .errDigest

/-! ## Reset and the host -/

/-- The reset input (70_reset_and_hazards.md R260, R261): the schedule all zero, `WK` 0, FB the machine's
`FB_RESET`, no response pending, DATA not touched. That the parameters and the host inputs still pending are kept
is the model's, log entry 14 (DEDUCED; the port as a list is log entry 6). -/
def Obligations.ResetInputGivesTheResetState : Prop :=
  ∀ (s : State) (rest : List HostInput), s.port = .assertReset :: rest →
    ∃ t, step s = .next t ∧ (∀ j < 1042, slotWord t.sched j = 0) ∧ t.wk = false ∧
      t.fb = s.cfg.fbReset ∧ t.resp = none ∧ t.mem = s.mem ∧ t.port = rest ∧ t.cfg = s.cfg

/-- `State.reset` (R261, 10_state.md R32), whose FB is the uninterpreted `Config.freeFbReset` (log entry 2)
and whose DATA lists nothing (log entry 5). -/
def Obligations.MachineAfterReset : Prop :=
  (∀ j < 1042, slotWord State.reset.sched j = 0) ∧ State.reset.wk = false ∧
    State.reset.fb = Config.freeFbReset ∧ State.reset.resp = none ∧ State.reset.port = [] ∧
    State.reset.mem = []

/-- A host write changes the bytes it names and nothing else (20_memory.md R61); an address DATA does not have
is the model's fault (log entry 6). That the response port keeps its value over a host write is the model's choice
(log entry 7, unsafe). -/
def Obligations.HostWritesAreOrdinaryMemory : Prop :=
  ∀ (s : State) (addr : Nat) (bytes : List Byte) (rest : List HostInput),
    s.port = .writeData addr bytes :: rest →
    (FitsData s addr bytes.length → s.mem.wf = true → ∃ t, step s = .next t ∧
      t = { s with port := rest, mem := t.mem } ∧ windowBytes t.mem addr bytes.length = bytes ∧
      SameOutside s.mem t.mem addr bytes.length) ∧
      (PastData s addr bytes.length → step s = .fault .hostWriteOutsideData)

/-! ## Invariants and whole-machine rules -/

/-- The invariant holds at reset (log entries 1 and 5 for `AW` and DATA there). -/
def Obligations.InvariantAtReset : Prop := Inv State.reset

/-- Every step keeps the invariant: DATA canonical and inside its `2^AW` bytes, `WK` the constant 0 (10_state.md
R25, 20_memory.md R61, R64). -/
def Obligations.StepKeepsTheInvariant : Prop :=
  ∀ s t : State, Inv s → step s = .next t → Inv t

/-- The schedule changes at CE_INIT, FS_INIT and reset only (10_state.md R22, R23, R31; 40_cipher_engine.md
R131 (b)). -/
def Obligations.OnlyKeyingChangesTheSchedule : Prop :=
  ∀ s t : State, step s = .next t → t.sched ≠ s.sched →
    nextIsReset s = true ∨ nextOp s = some 0x01 ∨ nextOp s = some 0x05

/-- FB changes at the three FS commands and reset only (10_state.md R26, R31; 40_cipher_engine.md R131 (c)). -/
def Obligations.OnlySessionCommandsChangeFeedback : Prop :=
  ∀ s t : State, step s = .next t → t.fb ≠ s.fb →
    nextIsReset s = true ∨ nextOp s = some 0x05 ∨ nextOp s = some 0x06 ∨ nextOp s = some 0x07

/-- A byte of DATA changes only where the host writes it, or inside the destination window of CE_ENC, CE_DEC,
FS_ENC or FS_DEC, whose address and length are the operands on the wires (10_state.md R31, 20_memory.md R67). -/
def Obligations.DataChangesOnlyInDestinationWindows : Prop :=
  ∀ (s t : State) (a : Nat), step s = .next t → t.mem.read a ≠ s.mem.read a →
    (∃ addr bytes rest, s.port = .writeData addr bytes :: rest ∧ addr ≤ a ∧ a < addr + bytes.length) ∨
      ∃ tr rest, s.port = .command tr :: rest ∧ onWires s.cfg.aw tr.b ≤ a ∧
        (((tr.op = 0x02 ∨ tr.op = 0x03) ∧
            a < onWires s.cfg.aw tr.b + floor8 (onWires s.cfg.aw tr.len)) ∨
          ((tr.op = 0x06 ∨ tr.op = 0x07) ∧ a < onWires s.cfg.aw tr.b + onWires s.cfg.aw tr.len))

/-- `WK` has no effect on anything: two machines that differ only in it stay so, and no step but reset changes
it (10_state.md R25). -/
def Obligations.WeakKeyFlagIsUnobservable : Prop :=
  ∀ (s : State) (b : Bool),
    (∀ t, step s = .next t →
      step { s with wk := b } = .next { t with wk := if nextIsReset s then false else b }) ∧
      ∀ r, step s = .fault r → step { s with wk := b } = .fault r

/-- The OPEN parameters are fixed for a machine: no step changes them (00_scope.md R5). -/
def Obligations.ParametersNeverChange : Prop :=
  ∀ s t : State, step s = .next t → t.cfg = s.cfg

/-! ## DATA -/

/-- A read after a write gives the bytes written, every other byte as before, and `MemRead` is the bytes of its
window by rising address (20_memory.md R62, R63). -/
def Obligations.DataReadsBackWhatWasWritten : Prop :=
  ∀ (m : Memory) (a : Nat) (v : List Byte), m.wf = true →
    memRead (memWrite m a v) a v.length = v ∧ SameOutside m (memWrite m a v) a v.length ∧
      ∀ b n, memRead m b n = windowBytes m b n

/-- Two memories in canonical form that read the same everywhere are the same data. -/
def Obligations.CanonicalDataIsUnique : Prop :=
  ∀ m m' : Memory, m.wf = true → m'.wf = true → (∀ a, m.read a = m'.read a) → m = m'

/-! ## Words -/

/-- Big-endian packing (00_scope.md R8): `be32` is the number `b0*2^24 + b1*2^16 + b2*2^8 + b3`, and `be32` and
`bytes4` are inverse. -/
def Obligations.BigEndianPackingIsInverse : Prop :=
  (∀ b0 b1 b2 b3 : Byte,
    (be32 b0 b1 b2 b3).toNat =
      b0.toNat * 2 ^ 24 + b1.toNat * 2 ^ 16 + b2.toNat * 2 ^ 8 + b3.toNat) ∧
    (∀ w : Word, be32 (byte0 w) (byte1 w) (byte2 w) (byte3 w) = w) ∧
    ∀ b0 b1 b2 b3 : Byte, byte0 (be32 b0 b1 b2 b3) = b0 ∧ byte1 (be32 b0 b1 b2 b3) = b1 ∧
      byte2 (be32 b0 b1 b2 b3) = b2 ∧ byte3 (be32 b0 b1 b2 b3) = b3

/-- F as numbers (40_cipher_engine.md R120): the four bytes of `x` index the four S-boxes, add modulo 2^32,
exclusive-or, add modulo 2^32, from left to right. -/
def Obligations.RoundFunctionIsLeftToRight : Prop :=
  ∀ (k : Schedule) (x : Word),
    (roundF k x).toNat =
      ((((k.s1.toList.getD (x.toNat / 2 ^ 24) 0).toNat + (k.s2.toList.getD (x.toNat / 2 ^ 16 % 256) 0).toNat) % 2 ^ 32
          ^^^ (k.s3.toList.getD (x.toNat / 2 ^ 8 % 256) 0).toNat)
        + (k.s4.toList.getD (x.toNat % 256) 0).toNat) % 2 ^ 32

/-! ## The Cipher Engine -/

/-- ENCBLK and DECBLK are inverse bijections for every content of the schedule (R132). -/
def Obligations.BlockOperationsAreInverse : Prop :=
  ∀ (k : Schedule) (b : Block), decBlk k (encBlk k b) = b ∧ encBlk k (decBlk k b) = b

/-- DECBLK is ENCBLK with `P[j]` replaced by `P[17-j]` for every j (R122). -/
def Obligations.DecryptionReversesThePArray : Prop :=
  ∀ (k : Schedule) (b : Block),
    decBlk k b = encBlk { k with p := Vector.ofFn fun j : Fin 18 => k.p[17 - j.val] } b

/-- On the all-zero schedule F is 0 and both block operations exchange the two halves (R123). -/
def Obligations.ZeroScheduleExchangesHalves : Prop :=
  (∀ x, roundF Schedule.zero x = 0) ∧
    ∀ b, encBlk Schedule.zero b = swapHalves b ∧ decBlk Schedule.zero b = swapHalves b

/-- KEYMIX is R125's loop: 18 words built from the cyclic walk, one shift and one byte at a time; equivalently
entry `i` is exclusive-ored with the big-endian word of walk bytes `4i` to `4i+3`; the S-boxes are not touched. -/
def Obligations.KeyMixIsTheWalkLoop : Prop :=
  ∀ (key : List Byte) (k : Schedule), key ≠ [] →
    (keyMix key k).p = keyMixLoop key 18 0 0 k.p ∧
      (∀ i < 18, (keyMix key k).p.toList.getD i 0 = k.p.toList.getD i 0 ^^^
        be32 (key.getD (4 * i % key.length) 0) (key.getD ((4 * i + 1) % key.length) 0)
          (key.getD ((4 * i + 2) % key.length) 0) (key.getD ((4 * i + 3) % key.length) 0)) ∧
      (keyMix key k).s1 = k.s1 ∧ (keyMix key k).s2 = k.s2 ∧ (keyMix key k).s3 = k.s3 ∧
      (keyMix key k).s4 = k.s4

/-- Two keys give the same KEYMIX result exactly when their 72-byte walks are equal (R126 (c)). -/
def Obligations.KeyMixSeesExactlyTheWalk : Prop :=
  ∀ (k : Schedule) (key key' : List Byte), key ≠ [] → key' ≠ [] →
    (keyMix key k = keyMix key' k ↔ ∀ j < 72, walkByte key j = walkByte key' j)

/-- Keys with equal schedules (R124 (c), R126): a key and the same key twice, all-zero keys of any two lengths
from 1, a long key and its first 72 bytes. -/
def Obligations.EquivalentKeysGiveOneSchedule : Prop :=
  (∀ key, keySchedule (key ++ key) = keySchedule key) ∧
    (∀ a b, 1 ≤ a → 1 ≤ b →
      keySchedule (List.replicate a 0) = keySchedule (List.replicate b 0)) ∧
    ∀ key : List Byte, 72 ≤ key.length → keySchedule key = keySchedule (key.take 72)

/-- FILL is one chain of 521 encryptions from `00 x 8`, each with the schedule as it is at that moment; the n-th
puts its two words in slots 2n and 2n+1, P-array first, then S1 to S4, and touches no other slot (R127). -/
def Obligations.FillIsOneChainOf521Encryptions : Prop :=
  ∀ k : Schedule, ∃ (chain : Nat → Block) (sch : Nat → Schedule),
    chain 0 = zeroBlock ∧ sch 0 = k ∧ sch 521 = fill k ∧
      (∀ n < 521, chain (n + 1) = encBlk (sch n) (chain n)) ∧
      ∀ n ≤ 521, ∀ j < 1042,
        slotWord (sch n) j =
          if j < 2 * n then
            if j % 2 = 0 then firstWord (chain (j / 2 + 1)) else secondWord (chain (j / 2 + 1))
          else slotWord k j

/-- CE_INIT (R124): ERR_RANGE before any effect; the constants for `LEN` = 0, whatever `KEY` and `OFF`; otherwise
the constants mixed with the window's bytes and filled. Everything else is unchanged. -/
def Obligations.CeInitBuildsTheSchedule : Prop :=
  ∀ (s : State) (key off len : Nat),
    (PastData s (key + off) len →
      exec (.ceInit key off len) s = .next { s with resp := some .errRange }) ∧
      (len = 0 → exec (.ceInit key off len) s =
        .next { s with sched := Schedule.constants, resp := some .ok }) ∧
      (0 < len → key + off + len ≤ 2 ^ s.cfg.aw → exec (.ceInit key off len) s =
        .next { s with
          sched := fill (keyMix (windowBytes s.mem (key + off) len) Schedule.constants)
          resp := some .ok })

/-- CE_ENC (R128), for every source and destination window, overlapping or not: ERR_RANGE before any effect;
nothing but the response for `LEN` < 8; otherwise the first block is read whole, encrypted and written, and the
rest is CE_ENC of the remaining bytes. -/
def Obligations.CeEncGoesBlockByBlock : Prop :=
  ∀ (s : State) (src dst len : Nat),
    (PastData s src (floor8 len) ∨ PastData s dst (floor8 len) →
      exec (.ceEnc src dst len) s = .next { s with resp := some .errRange }) ∧
      (len < 8 → exec (.ceEnc src dst len) s = .next { s with resp := some .ok }) ∧
      (8 ≤ len → FitsData s src (floor8 len) → FitsData s dst (floor8 len) →
        exec (.ceEnc src dst len) s = exec (.ceEnc (src + 8) (dst + 8) (len - 8))
          { s with
            mem := memWrite s.mem dst
              (encBlk s.sched (blockOf (windowBytes s.mem src 8))).toList })

/-- CE_DEC (R129), the same with DECBLK. -/
def Obligations.CeDecGoesBlockByBlock : Prop :=
  ∀ (s : State) (src dst len : Nat),
    (PastData s src (floor8 len) ∨ PastData s dst (floor8 len) →
      exec (.ceDec src dst len) s = .next { s with resp := some .errRange }) ∧
      (len < 8 → exec (.ceDec src dst len) s = .next { s with resp := some .ok }) ∧
      (8 ≤ len → FitsData s src (floor8 len) → FitsData s dst (floor8 len) →
        exec (.ceDec src dst len) s = exec (.ceDec (src + 8) (dst + 8) (len - 8))
          { s with
            mem := memWrite s.mem dst
              (decBlk s.sched (blockOf (windowBytes s.mem src 8))).toList })

/-- CE_ENC and CE_DEC complete with OK whenever their windows fit, for every `LEN`, and change DATA inside
(`DST`, `floor8(LEN)`) and the response only: trailing bytes keep their contents (R128, R129, 10_state.md R31,
20_memory.md R67). -/
def Obligations.BlockCommandsCompleteAndFrame : Prop :=
  ∀ (s : State) (src dst len : Nat), FitsData s src (floor8 len) → FitsData s dst (floor8 len) →
    ∀ i, i = .ceEnc src dst len ∨ i = .ceDec src dst len →
      ∃ t, exec i s = .next t ∧ t = { s with mem := t.mem, resp := some .ok } ∧
        SameOutside s.mem t.mem dst (floor8 len)

/-- The by-value reading of CE_ENC and CE_DEC (R128, R129, 20_memory.md R68, R69 (a), (b)): when the destination is
the source, below it, or disjoint, every destination block is the image of the source block as it was before
the command. -/
def Obligations.BlockCommandsAreByValue : Prop :=
  ∀ (s : State) (src dst len : Nat), s.mem.wf = true → FitsData s src (floor8 len) →
    FitsData s dst (floor8 len) → ByValueWindows src dst (floor8 len) →
    (∃ t, exec (.ceEnc src dst len) s = .next t ∧ ∀ n < len / 8,
      windowBytes t.mem (dst + 8 * n) 8 =
        (encBlk s.sched (blockOf (windowBytes s.mem (src + 8 * n) 8))).toList) ∧
      ∃ t, exec (.ceDec src dst len) s = .next t ∧ ∀ n < len / 8,
        windowBytes t.mem (dst + 8 * n) 8 =
          (decBlk s.sched (blockOf (windowBytes s.mem (src + 8 * n) 8))).toList

/-- CE_DEC after CE_ENC with the same schedule and length restores the first `floor8(LEN)` bytes (R129, R131 (e)),
when neither destination runs ahead of its source inside the window: in that form (20_memory.md R69 (c)) the law
does not hold. -/
def Obligations.CeDecUndoesCeEnc : Prop :=
  ∀ (s : State) (src mid dst len : Nat), s.mem.wf = true → FitsData s src (floor8 len) →
    FitsData s mid (floor8 len) → FitsData s dst (floor8 len) →
    ByValueWindows src mid (floor8 len) → ByValueWindows mid dst (floor8 len) →
    ∃ t u, exec (.ceEnc src mid len) s = .next t ∧ exec (.ceDec mid dst len) t = .next u ∧
      windowBytes u.mem dst (floor8 len) = windowBytes s.mem src (floor8 len)

/-! ## The Feedback Session -/

/-- FS_DISPATCH (R160): which round, by the direction and the number of bytes left. -/
def Obligations.DispatchChoosesTheRound : Prop :=
  ∀ r : Nat,
    (8 ≤ r → fsDispatch .enc r = .fullEnc ∧ fsDispatch .dec r = .fullDec) ∧
      (1 ≤ r → r ≤ 7 → ∀ dir, fsDispatch dir r = .tail) ∧ ∀ dir, (r = 0 ↔ fsDispatch dir r = .done)

/-- FS_FULL_DEC undoes FS_FULL_ENC from the same FB and schedule, and both leave the same FB (R162). -/
def Obligations.FullRoundsUndoEachOther : Prop :=
  ∀ (k : Schedule) (fb x : Block),
    fsFullDec k fb (fsFullEnc k fb x).1 = (x, (fsFullEnc k fb x).2) ∧
      fsFullEnc k fb (fsFullDec k fb x).1 = (x, (fsFullDec k fb x).2)

/-- FS_TAIL (R163): the first bytes of `ENCBLK(FB)` xor the data, FB advanced by all 8 keystream bytes whatever the
data and its length, and an involution on the data for a fixed starting FB. -/
def Obligations.TailIsAKeystreamInvolution : Prop :=
  ∀ (k : Schedule) (fb : Block) (x : List Byte), 1 ≤ x.length → x.length ≤ 7 →
    (fsTail k fb x).1.length = x.length ∧
      (∀ j < x.length, (fsTail k fb x).1.getD j 0 = (encBlk k fb).toList.getD j 0 ^^^ x.getD j 0) ∧
      (fsTail k fb x).2 = xorBlock fb (encBlk k fb) ∧
      fsTail k fb (fsTail k fb x).1 = (x, (fsTail k fb x).2)

/-- FS_ENC (R164), for every source and destination window: ERR_RANGE before any effect; nothing but the response
for `LEN` = 0; one tail round for 1 to 7 bytes; otherwise one full encrypt round on the first 8 bytes and then
FS_ENC of the rest. -/
def Obligations.FsEncGoesRoundByRound : Prop :=
  ∀ (s : State) (src dst len : Nat),
    (PastData s src len ∨ PastData s dst len →
      exec (.fsEnc src dst len) s = .next { s with resp := some .errRange }) ∧
      (len = 0 → exec (.fsEnc src dst len) s = .next { s with resp := some .ok }) ∧
      (1 ≤ len → len ≤ 7 → FitsData s src len → FitsData s dst len →
        exec (.fsEnc src dst len) s =
          .next { s with
            mem := memWrite s.mem dst
              (xorBytes (encBlk s.sched s.fb).toList (windowBytes s.mem src len))
            fb := xorBlock s.fb (encBlk s.sched s.fb)
            resp := some .ok }) ∧
      (8 ≤ len → FitsData s src len → FitsData s dst len →
        ∀ y, y = encBlk s.sched (xorBlock s.fb (blockOf (windowBytes s.mem src 8))) →
          exec (.fsEnc src dst len) s = exec (.fsEnc (src + 8) (dst + 8) (len - 8))
            { s with mem := memWrite s.mem dst y.toList, fb := xorBlock s.fb y })

/-- FS_DEC (R165): the same shape with the full decrypt round, and the same tail round as FS_ENC. -/
def Obligations.FsDecGoesRoundByRound : Prop :=
  ∀ (s : State) (src dst len : Nat),
    (PastData s src len ∨ PastData s dst len →
      exec (.fsDec src dst len) s = .next { s with resp := some .errRange }) ∧
      (len = 0 → exec (.fsDec src dst len) s = .next { s with resp := some .ok }) ∧
      (1 ≤ len → len ≤ 7 → FitsData s src len → FitsData s dst len →
        exec (.fsDec src dst len) s =
          .next { s with
            mem := memWrite s.mem dst
              (xorBytes (encBlk s.sched s.fb).toList (windowBytes s.mem src len))
            fb := xorBlock s.fb (encBlk s.sched s.fb)
            resp := some .ok }) ∧
      (8 ≤ len → FitsData s src len → FitsData s dst len →
        ∀ c, c = blockOf (windowBytes s.mem src 8) →
          exec (.fsDec src dst len) s = exec (.fsDec (src + 8) (dst + 8) (len - 8))
            { s with
              mem := memWrite s.mem dst (xorBlock s.fb (decBlk s.sched c)).toList
              fb := xorBlock s.fb c })

/-- FS_ENC and FS_DEC complete with OK whenever their windows fit, for every `LEN`, and change DATA inside
(`DST`, `LEN`), FB and the response only; FB keeps its value for `LEN` = 0 (R164, R165, 10_state.md R31). -/
def Obligations.StreamCommandsCompleteAndFrame : Prop :=
  ∀ (s : State) (src dst len : Nat), FitsData s src len → FitsData s dst len →
    ∀ i, i = .fsEnc src dst len ∨ i = .fsDec src dst len →
      ∃ t, exec i s = .next t ∧ t = { s with mem := t.mem, fb := t.fb, resp := some .ok } ∧
        SameOutside s.mem t.mem dst len ∧ (len = 0 → t.fb = s.fb)

/-- The by-value reading of FS_ENC and FS_DEC (R164, R165, 20_memory.md R68, R69 (a), (b)): when the destination is
the source, below it, or disjoint, the destination holds the output stream of the source's bytes as they were,
and FB is the stream's final FB. -/
def Obligations.StreamCommandsAreByValue : Prop :=
  ∀ (s : State) (src dst len : Nat), s.mem.wf = true → FitsData s src len → FitsData s dst len →
    ByValueWindows src dst len →
    (∃ t, exec (.fsEnc src dst len) s = .next t ∧
      (windowBytes t.mem dst len, t.fb) =
        streamBytes .enc s.sched s.fb (windowBytes s.mem src len)) ∧
      ∃ t, exec (.fsDec src dst len) s = .next t ∧
        (windowBytes t.mem dst len, t.fb) =
          streamBytes .dec s.sched s.fb (windowBytes s.mem src len)

/-- Round trip of the streams (R166 (a)): from the same schedule and feedback, Dec of Enc's output gives the
message back and ends with the same feedback, for a message of any length. -/
def Obligations.StreamRoundTrip : Prop :=
  ∀ (k : Schedule) (fb : Block) (m : List Byte),
    streamBytes .dec k fb (streamBytes .enc k fb m).1 = (m, (streamBytes .enc k fb m).2)

/-- Length preservation (R166 (b)). -/
def Obligations.StreamPreservesLength : Prop :=
  ∀ (dir : Direction) (k : Schedule) (fb : Block) (m : List Byte),
    (streamBytes dir k fb m).1.length = m.length

/-- Call splitting at a multiple of 8 (R166 (d), the direction that holds for every schedule): two calls give the
output and the final feedback of one. -/
def Obligations.StreamSplitsAtMultiplesOfEight : Prop :=
  ∀ (dir : Direction) (k : Schedule) (fb : Block) (m1 m2 : List Byte), m1.length % 8 = 0 →
    streamBytes dir k fb (m1 ++ m2) =
      ((streamBytes dir k fb m1).1 ++ (streamBytes dir k (streamBytes dir k fb m1).2 m2).1,
        (streamBytes dir k (streamBytes dir k fb m1).2 m2).2)

/-- The first 8n output bytes depend only on the first 8n input bytes (R166 (e)), and a message of 1 to 7 bytes
leaves the same feedback whatever it is (R166 (f)). -/
def Obligations.StreamOutputDependsOnItsPast : Prop :=
  (∀ (dir : Direction) (k : Schedule) (fb : Block) (m m' : List Byte) (n : Nat), 8 * n ≤ m.length →
    8 * n ≤ m'.length → m.take (8 * n) = m'.take (8 * n) →
    (streamBytes dir k fb m).1.take (8 * n) = (streamBytes dir k fb m').1.take (8 * n)) ∧
    ∀ (dir dir' : Direction) (k : Schedule) (fb : Block) (m m' : List Byte), 1 ≤ m.length → m.length ≤ 7 →
      1 ≤ m'.length → m'.length ≤ 7 → (streamBytes dir k fb m).2 = (streamBytes dir' k fb m').2

/-- A receiver whose feedback differs from the sender's by a constant `d` gets every full block as the true
plaintext xor `d`, and keeps the difference (70_reset_and_hazards.md R265; 41_feedback_session.md R165, error
propagation). -/
def Obligations.FeedbackDifferenceIsCarriedForward : Prop :=
  ∀ (k : Schedule) (fb d : Block) (c : List Byte), c.length % 8 = 0 →
    (streamBytes .dec k (xorBlock fb d) c).2 = xorBlock (streamBytes .dec k fb c).2 d ∧
      ∀ n < c.length / 8,
        blockOf ((streamBytes .dec k (xorBlock fb d) c).1.drop (8 * n)) =
          xorBlock (blockOf ((streamBytes .dec k fb c).1.drop (8 * n))) d

/-- FS_INIT (R167, with R168: steps 5 to 7 leave no trace; R95: operand `b` is ignored): ERR_RANGE before any
effect, the digest port not asked; ERR_DIGEST with FB at `FF x 8` and nothing else changed; otherwise the
schedule of the 32 digest bytes and FB = ENCBLK(`FF x 8`) under it, everything else unchanged. -/
def Obligations.FsInitDerivesTheSession : Prop :=
  ∀ (s : State) (pw b len : Nat),
    (PastData s pw len → exec (.fsInit pw b len) s = .next { s with resp := some .errRange }) ∧
      (FitsData s pw len →
        (digestAnswer s.cfg.digest (windowBytes s.mem pw len) = none →
          exec (.fsInit pw b len) s =
            .next { s with fb := onesBlock, resp := some .errDigest }) ∧
          ∀ d, digestAnswer s.cfg.digest (windowBytes s.mem pw len) = some d →
            exec (.fsInit pw b len) s =
              .next { s with
                sched := fill (keyMix d.toList Schedule.constants)
                fb := encBlk (fill (keyMix d.toList Schedule.constants)) onesBlock
                resp := some .ok })

/-- A host that issues MSG_ENC stops at a failed key derivation: FS_ENC is not issued, so DATA keeps its
contents and the schedule is the old one (30_encoding.md R99, 60_exceptions.md R235). -/
def Obligations.FailedDerivationStopsTheMessage : Prop :=
  ∀ (s : State) (pw plen src dst len : Nat), FitsData s pw plen →
    digestAnswer s.cfg.digest (windowBytes s.mem pw plen) = none →
    runPseudo (.msgEnc pw plen src dst len) s =
        .next { s with fb := onesBlock, resp := some .errDigest } ∧
      runPseudo (.msgDec pw plen src dst len) s =
        .next { s with fb := onesBlock, resp := some .errDigest }

/-- The whole path a message takes (30_encoding.md R99, 41_feedback_session.md R166 (a), R167): MSG_ENC from any
state and any earlier session, then MSG_DEC with the same password, puts the message in the last window, with
the feedback the encryption left. Neither destination runs ahead of its source inside the window (20_memory.md
R69 (c)), and the password window, which may be empty, shares no address with the middle one. -/
def Obligations.MessageRoundTrip : Prop :=
  ∀ (s : State) (pw plen src mid dst len : Nat) (d : Digest), s.mem.wf = true →
    FitsData s pw plen → FitsData s src len → FitsData s mid len → FitsData s dst len →
    ByValueWindows src mid len → ByValueWindows mid dst len → DisjointWindows pw plen mid len →
    digestAnswer s.cfg.digest (windowBytes s.mem pw plen) = some d →
    ∃ t u, runPseudo (.msgEnc pw plen src mid len) s = .next t ∧
      runPseudo (.msgDec pw plen mid dst len) t = .next u ∧ t.resp = some .ok ∧ u.resp = some .ok ∧
      windowBytes u.mem dst len = windowBytes s.mem src len ∧ u.fb = t.fb ∧ u.sched = t.sched
end

