-- ==== Sys2Proof/Laws/State.lean ====
section
/-! SUPPORT. One lemma per field per update of the state, each true by rfl. -/

namespace Sys2Proof.Machine

section setSched
variable (s : State) (k : Schedule)
@[simp] theorem setSched_sched : (s.setSched k).sched = k := rfl
@[simp] theorem setSched_wk : (s.setSched k).wk = s.wk := rfl
@[simp] theorem setSched_fb : (s.setSched k).fb = s.fb := rfl
@[simp] theorem setSched_mem : (s.setSched k).mem = s.mem := rfl
@[simp] theorem setSched_resp : (s.setSched k).resp = s.resp := rfl
@[simp] theorem setSched_port : (s.setSched k).port = s.port := rfl
@[simp] theorem setSched_cfg : (s.setSched k).cfg = s.cfg := rfl
end setSched

section setFb
variable (s : State) (fb : Block)
@[simp] theorem setFb_sched : (s.setFb fb).sched = s.sched := rfl
@[simp] theorem setFb_wk : (s.setFb fb).wk = s.wk := rfl
@[simp] theorem setFb_fb : (s.setFb fb).fb = fb := rfl
@[simp] theorem setFb_mem : (s.setFb fb).mem = s.mem := rfl
@[simp] theorem setFb_resp : (s.setFb fb).resp = s.resp := rfl
@[simp] theorem setFb_port : (s.setFb fb).port = s.port := rfl
@[simp] theorem setFb_cfg : (s.setFb fb).cfg = s.cfg := rfl
end setFb

section setMem
variable (s : State) (m : Memory)
@[simp] theorem setMem_sched : (s.setMem m).sched = s.sched := rfl
@[simp] theorem setMem_wk : (s.setMem m).wk = s.wk := rfl
@[simp] theorem setMem_fb : (s.setMem m).fb = s.fb := rfl
@[simp] theorem setMem_mem : (s.setMem m).mem = m := rfl
@[simp] theorem setMem_resp : (s.setMem m).resp = s.resp := rfl
@[simp] theorem setMem_port : (s.setMem m).port = s.port := rfl
@[simp] theorem setMem_cfg : (s.setMem m).cfg = s.cfg := rfl
end setMem

section setResp
variable (s : State) (r : Option Response)
@[simp] theorem setResp_sched : (s.setResp r).sched = s.sched := rfl
@[simp] theorem setResp_wk : (s.setResp r).wk = s.wk := rfl
@[simp] theorem setResp_fb : (s.setResp r).fb = s.fb := rfl
@[simp] theorem setResp_mem : (s.setResp r).mem = s.mem := rfl
@[simp] theorem setResp_resp : (s.setResp r).resp = r := rfl
@[simp] theorem setResp_port : (s.setResp r).port = s.port := rfl
@[simp] theorem setResp_cfg : (s.setResp r).cfg = s.cfg := rfl
end setResp

section setPort
variable (s : State) (q : List HostInput)
@[simp] theorem setPort_sched : (s.setPort q).sched = s.sched := rfl
@[simp] theorem setPort_wk : (s.setPort q).wk = s.wk := rfl
@[simp] theorem setPort_fb : (s.setPort q).fb = s.fb := rfl
@[simp] theorem setPort_mem : (s.setPort q).mem = s.mem := rfl
@[simp] theorem setPort_resp : (s.setPort q).resp = s.resp := rfl
@[simp] theorem setPort_port : (s.setPort q).port = q := rfl
@[simp] theorem setPort_cfg : (s.setPort q).cfg = s.cfg := rfl
end setPort

section loadSchedule
variable (s : State) (k : Schedule)
@[simp] theorem loadSchedule_sched : (loadSchedule k s).sched = k := rfl
@[simp] theorem loadSchedule_wk : (loadSchedule k s).wk = s.wk := rfl
@[simp] theorem loadSchedule_fb : (loadSchedule k s).fb = s.fb := rfl
@[simp] theorem loadSchedule_mem : (loadSchedule k s).mem = s.mem := rfl
@[simp] theorem loadSchedule_resp : (loadSchedule k s).resp = s.resp := rfl
@[simp] theorem loadSchedule_port : (loadSchedule k s).port = s.port := rfl
@[simp] theorem loadSchedule_cfg : (loadSchedule k s).cfg = s.cfg := rfl
theorem loadSchedule_eq : loadSchedule k s = { s with sched := k } := rfl
end loadSchedule

theorem respondOk_eq (s : State) : respondOk s = { s with resp := some .ok } := rfl

theorem raiseError_eq (e : Response) (s : State) : raiseError e s = { s with resp := some e } := rfl

end Sys2Proof.Machine
end

