-- ==== Sys2Proof/Laws/Memory.lean ====
section
/-! SUPPORT. The laws of DATA: reading after writing, and that every operation keeps the canonical form
and the bound. -/

namespace Sys2Proof.Machine

@[simp] theorem read_nil (a : Nat) : Memory.read [] a = Memory.unlisted := rfl

theorem read_cell_append (a : Nat) (v : Byte) (m : Memory) (x : Nat) (h : x ≠ a) :
    Memory.read (Memory.cell a v ++ m) x = m.read x := by
  unfold Memory.cell
  split <;> simp [Memory.read, h]

/-- Below the first address a canonical memory lists, every byte is unlisted. -/
theorem read_below : ∀ {m : Memory} {lo a : Nat}, Memory.wfFrom lo m = true → a < lo →
    m.read a = Memory.unlisted
  | [], _, _, _, _ => rfl
  | (b, w) :: m, lo, a, h, ha => by
    simp only [Memory.wfFrom, Bool.and_eq_true, decide_eq_true_eq] at h
    obtain ⟨⟨h1, h2⟩, h3⟩ := h
    have : a ≠ b := by omega
    simp only [Memory.read, this, if_false]
    exact read_below h3 (by omega)

theorem wfFrom_mono : ∀ {m : Memory} {lo lo' : Nat}, Memory.wfFrom lo m = true → lo' ≤ lo →
    Memory.wfFrom lo' m = true
  | [], _, _, _, _ => rfl
  | (b, w) :: m, lo, lo', h, hl => by
    simp only [Memory.wfFrom, Bool.and_eq_true, decide_eq_true_eq] at h ⊢
    exact ⟨⟨by omega, h.1.2⟩, h.2⟩

theorem wfFrom_cell_append {a lo : Nat} {v : Byte} {m : Memory} (hm : Memory.wfFrom (a + 1) m = true)
    (hlo : lo ≤ a) : Memory.wfFrom lo (Memory.cell a v ++ m) = true := by
  unfold Memory.cell
  split
  · exact wfFrom_mono hm (by omega)
  · rename_i h
    simp [Memory.wfFrom, h, hm, hlo]

/-- A write leaves every other address alone. -/
theorem read_write_other : ∀ (m : Memory) (a : Nat) (v : Byte) (x : Nat), x ≠ a →
    (m.write a v).read x = m.read x
  | [], a, v, x, h => by simpa [Memory.write] using read_cell_append a v [] x h
  | (b, w) :: m, a, v, x, h => by
    simp only [Memory.write]
    split
    · exact read_cell_append a v _ x h
    · split
      · rename_i h2
        subst h2
        rw [read_cell_append a v m x h]
        simp [Memory.read, h]
      · simp only [Memory.read, read_write_other m a v x h]

theorem read_cell_same {a : Nat} {v : Byte} {m : Memory} (hm : Memory.wfFrom (a + 1) m = true) :
    Memory.read (Memory.cell a v ++ m) a = v := by
  unfold Memory.cell
  split
  · rename_i h
    simpa [h] using read_below hm (Nat.lt_succ_self a)
  · simp [Memory.read]

theorem read_write_same_from : ∀ {m : Memory} {lo : Nat} (a : Nat) (v : Byte),
    Memory.wfFrom lo m = true → (m.write a v).read a = v
  | [], _, a, v, _ => by
    simpa [Memory.write] using read_cell_same (a := a) (v := v) (m := []) rfl
  | (b, w) :: m, lo, a, v, h => by
    simp only [Memory.wfFrom, Bool.and_eq_true, decide_eq_true_eq] at h
    obtain ⟨⟨h1, h2⟩, h3⟩ := h
    simp only [Memory.write]
    split
    · rename_i hab
      refine read_cell_same ?_
      simp only [Memory.wfFrom, Bool.and_eq_true, decide_eq_true_eq]
      exact ⟨⟨by omega, h2⟩, h3⟩
    · split
      · rename_i hab
        subst hab
        exact read_cell_same h3
      · rename_i hab
        simp only [Memory.read, hab, if_false]
        exact read_write_same_from a v h3

/-- A read after a write to the same address gives the byte written. -/
theorem read_write_same {m : Memory} (hm : m.wf = true) (a : Nat) (v : Byte) :
    (m.write a v).read a = v := read_write_same_from a v hm

theorem wfFrom_write : ∀ {m : Memory} {lo : Nat} (a : Nat) (v : Byte), Memory.wfFrom lo m = true →
    Memory.wfFrom (min lo a) (m.write a v) = true
  | [], lo, a, v, _ => by
    simpa [Memory.write] using wfFrom_cell_append (a := a) (v := v) (m := []) rfl (Nat.min_le_right lo a)
  | (b, w) :: m, lo, a, v, h => by
    have h' := h
    simp only [Memory.wfFrom, Bool.and_eq_true, decide_eq_true_eq] at h
    obtain ⟨⟨h1, h2⟩, h3⟩ := h
    simp only [Memory.write]
    split
    · refine wfFrom_cell_append ?_ (Nat.min_le_right lo a)
      simp only [Memory.wfFrom, Bool.and_eq_true, decide_eq_true_eq]
      exact ⟨⟨by omega, h2⟩, h3⟩
    · split
      · rename_i hab
        subst hab
        exact wfFrom_cell_append h3 (Nat.min_le_right lo a)
      · simp only [Memory.wfFrom, Bool.and_eq_true, decide_eq_true_eq]
        refine ⟨⟨by omega, h2⟩, ?_⟩
        have := wfFrom_write (m := m) (lo := b + 1) a v h3
        rwa [show min (b + 1) a = b + 1 by omega] at this

/-- Writing a byte keeps the canonical form. -/
theorem wf_write {m : Memory} (hm : m.wf = true) (a : Nat) (v : Byte) : (m.write a v).wf = true :=
  wfFrom_mono (wfFrom_write a v hm) (by omega)

theorem within_cell_append {aw a : Nat} {v : Byte} {m : Memory} (ha : a < 2 ^ aw)
    (hm : Memory.within aw m = true) : Memory.within aw (Memory.cell a v ++ m) = true := by
  unfold Memory.cell
  split
  · simpa using hm
  · simp only [Memory.within, List.cons_append, List.nil_append, List.all_cons, ha, decide_true,
      Bool.true_and]
    exact hm

/-- Writing a byte inside DATA keeps every listed address inside it. -/
theorem within_write {aw : Nat} : ∀ {m : Memory} (a : Nat) (v : Byte), a < 2 ^ aw →
    Memory.within aw m = true → Memory.within aw (Memory.write m a v) = true
  | [], a, v, ha, hm => by simpa [Memory.write] using within_cell_append (v := v) ha hm
  | (b, w) :: m, a, v, ha, hm => by
    have hm' : decide (b < 2 ^ aw) = true ∧ Memory.within aw m = true := by
      simpa [Memory.within] using hm
    simp only [Memory.write]
    split
    · exact within_cell_append ha hm
    · split
      · exact within_cell_append ha hm'.2
      · have := within_write a v ha hm'.2
        simp only [Memory.within, List.all_cons, hm'.1, Bool.true_and] at this ⊢
        exact this

/-! ## `MemRead` and `MemWrite` -/

@[simp] theorem memRead_length (m : Memory) (a n : Nat) : (memRead m a n).length = n := by
  induction n generalizing a with
  | zero => rfl
  | succ n ih => simp [memRead, ih]

theorem memRead_getElem? (m : Memory) : ∀ (a n i : Nat), i < n →
    (memRead m a n)[i]? = some (m.read (a + i))
  | a, n + 1, 0, _ => by simp [memRead]
  | a, n + 1, i + 1, h => by
    simp only [memRead, List.getElem?_cons_succ]
    rw [memRead_getElem? m (a + 1) n i (by omega)]
    congr 2
    omega

@[simp] theorem memRead_getElem (m : Memory) (a n i : Nat) (h : i < (memRead m a n).length) :
    (memRead m a n)[i] = m.read (a + i) := by
  have := memRead_getElem? m a n i (by simpa using h)
  rw [List.getElem?_eq_getElem h] at this
  exact Option.some.inj this

theorem memRead_eq_windowBytes (m : Memory) (a n : Nat) : memRead m a n = windowBytes m a n := by
  apply List.ext_getElem <;> simp [windowBytes]

/-- A read depends only on the bytes of its window. -/
theorem memRead_congr {m m' : Memory} : ∀ (a n : Nat), (∀ x, a ≤ x → x < a + n → m.read x = m'.read x) →
    memRead m a n = memRead m' a n
  | _, 0, _ => rfl
  | a, n + 1, h => by
    simp only [memRead]
    rw [h a (by omega) (by omega), memRead_congr (a + 1) n fun x h1 h2 => h x (by omega) (by omega)]

/-- A read of `n + k` bytes is a read of `n` and then of `k`. -/
theorem memRead_add (m : Memory) : ∀ (a n k : Nat),
    memRead m a (n + k) = memRead m a n ++ memRead m (a + n) k
  | a, 0, k => by simp [memRead]
  | a, n + 1, k => by
    rw [show n + 1 + k = (n + k) + 1 by omega]
    simp only [memRead, List.cons_append]
    rw [memRead_add m (a + 1) n k, show a + 1 + n = a + (n + 1) by omega]

/-- `MemWrite` leaves every byte outside its window alone. -/
theorem read_memWrite_other : ∀ (v : List Byte) (m : Memory) (a x : Nat),
    (x < a ∨ a + v.length ≤ x) → (memWrite m a v).read x = m.read x
  | [], _, _, _, _ => rfl
  | b :: v, m, a, x, h => by
    simp only [memWrite]
    simp only [List.length_cons] at h
    rw [read_memWrite_other v _ (a + 1) x (by omega), read_write_other m a b x (by omega)]

theorem wf_memWrite : ∀ (v : List Byte) {m : Memory} (a : Nat), m.wf = true →
    (memWrite m a v).wf = true
  | [], _, _, h => h
  | b :: v, _, a, h => wf_memWrite v (a + 1) (wf_write h a b)

theorem within_memWrite {aw : Nat} : ∀ (v : List Byte) {m : Memory} (a : Nat),
    (v.length = 0 ∨ a + v.length ≤ 2 ^ aw) → Memory.within aw m = true →
    Memory.within aw (memWrite m a v) = true
  | [], _, _, _, h => h
  | b :: v, _, a, hl, h => by
    simp only [List.length_cons] at hl
    exact within_memWrite v (a + 1) (by omega) (within_write a b (by omega) h)

/-- `MemWrite` puts `v[i]` at `a + i`. -/
theorem read_memWrite_in : ∀ (v : List Byte) {m : Memory} (a i : Nat) (hi : i < v.length),
    m.wf = true → (memWrite m a v).read (a + i) = v[i]
  | b :: v, m, a, 0, _, h => by
    simp only [memWrite, Nat.add_zero, List.getElem_cons_zero]
    rw [read_memWrite_other v _ (a + 1) a (by omega), read_write_same h]
  | b :: v, m, a, i + 1, hi, h => by
    simp only [memWrite, List.getElem_cons_succ]
    rw [show a + (i + 1) = a + 1 + i by omega]
    exact read_memWrite_in v (a + 1) i (by simpa using hi) (wf_write h a b)

end Sys2Proof.Machine
end

