-- ==== Sys2Proof/Laws/Blocks.lean ====
section
/-! SUPPORT. The laws of bytes, words and blocks (00_scope.md R6 to R8). -/

namespace Sys2Proof.Machine

/-! ## Words and their bytes -/

/-- The bits of a word built from four bytes. -/
theorem be32_getLsbD (b0 b1 b2 b3 : Byte) (i : Nat) :
    (be32 b0 b1 b2 b3).getLsbD i =
      if i < 8 then b3.getLsbD i
      else if i < 16 then b2.getLsbD (i - 8)
      else if i < 24 then b1.getLsbD (i - 16)
      else b0.getLsbD (i - 24) := by
  unfold be32
  rw [BitVec.getLsbD_append, BitVec.getLsbD_append, BitVec.getLsbD_append]
  repeat' split
  all_goals first | omega | rfl

@[simp] theorem byte0_be32 (b0 b1 b2 b3 : Byte) : byte0 (be32 b0 b1 b2 b3) = b0 := by
  apply BitVec.eq_of_getLsbD_eq
  intro i hi
  have h1 : ¬ 24 + i < 8 := by omega
  have h2 : ¬ 24 + i < 16 := by omega
  have h3 : ¬ 24 + i < 24 := by omega
  simp [byte0, be32_getLsbD, h1, h2, hi]

@[simp] theorem byte1_be32 (b0 b1 b2 b3 : Byte) : byte1 (be32 b0 b1 b2 b3) = b1 := by
  apply BitVec.eq_of_getLsbD_eq
  intro i hi
  have h1 : ¬ 16 + i < 8 := by omega
  have h2 : 16 + i < 24 := by omega
  simp [byte1, be32_getLsbD, h1, h2, hi]

@[simp] theorem byte2_be32 (b0 b1 b2 b3 : Byte) : byte2 (be32 b0 b1 b2 b3) = b2 := by
  apply BitVec.eq_of_getLsbD_eq
  intro i hi
  have h1 : 8 + i < 16 := by omega
  simp [byte2, be32_getLsbD, h1, hi]

@[simp] theorem byte3_be32 (b0 b1 b2 b3 : Byte) : byte3 (be32 b0 b1 b2 b3) = b3 := by
  apply BitVec.eq_of_getLsbD_eq
  intro i hi
  simp [byte3, be32_getLsbD, hi]

/-- A word is the word of its four bytes. -/
@[simp] theorem be32_bytes (w : Word) : be32 (byte0 w) (byte1 w) (byte2 w) (byte3 w) = w := by
  apply BitVec.eq_of_getLsbD_eq
  intro i hi
  rw [be32_getLsbD]
  simp only [byte0, byte1, byte2, byte3, BitVec.getLsbD_extractLsb']
  repeat' split
  · simp [*]
  · rw [show 8 + (i - 8) = i by omega, decide_eq_true (by omega : i - 8 < 8), Bool.true_and]
  · rw [show 16 + (i - 16) = i by omega, decide_eq_true (by omega : i - 16 < 8), Bool.true_and]
  · rw [show 24 + (i - 24) = i by omega, decide_eq_true (by omega : i - 24 < 8), Bool.true_and]

/-! ## Blocks and their words -/

@[simp] theorem firstWord_blockOfWords (x y : Word) : firstWord (blockOfWords x y) = x :=
  be32_bytes x

@[simp] theorem secondWord_blockOfWords (x y : Word) : secondWord (blockOfWords x y) = y :=
  be32_bytes y

@[simp] theorem blockOfWords_words (b : Block) : blockOfWords (firstWord b) (secondWord b) = b := by
  ext1 i hi
  match i, hi with
  | 0, _ => exact byte0_be32 ..
  | 1, _ => exact byte1_be32 ..
  | 2, _ => exact byte2_be32 ..
  | 3, _ => exact byte3_be32 ..
  | 4, _ => exact byte0_be32 ..
  | 5, _ => exact byte1_be32 ..
  | 6, _ => exact byte2_be32 ..
  | 7, _ => exact byte3_be32 ..

@[simp] theorem xorBlock_getElem (a b : Block) (i : Nat) (h : i < 8) :
    (xorBlock a b)[i] = a[i] ^^^ b[i] := by simp [xorBlock]

theorem xorBlock_comm (a b : Block) : xorBlock a b = xorBlock b a := by
  ext1 i hi
  simp [BitVec.xor_comm]

theorem xorBlock_assoc (a b c : Block) : xorBlock (xorBlock a b) c = xorBlock a (xorBlock b c) := by
  ext1 i hi
  simp [BitVec.xor_assoc]

/-- Exclusive-or with the same block twice gives the other block back. -/
@[simp] theorem xorBlock_cancel (a b : Block) : xorBlock a (xorBlock a b) = b := by
  ext1 i hi
  simp

@[simp] theorem toList_length (b : Block) : b.toList.length = 8 := by simp

@[simp] theorem blockOf_getElem (l : List Byte) (i : Nat) (h : i < 8) :
    (blockOf l)[i] = l.getD i 0 := by simp [blockOf]

/-- A block's bytes, whatever follows them, give the block back. -/
@[simp] theorem blockOf_toList_append (b : Block) (l : List Byte) : blockOf (b.toList ++ l) = b := by
  ext1 i hi
  simp [List.getElem?_append, hi]

@[simp] theorem blockOf_toList (b : Block) : blockOf b.toList = b := by
  simpa using blockOf_toList_append b []

/-- The bytes of the block of a sequence of 8 bytes are that sequence. -/
theorem toList_blockOf {l : List Byte} (h : l.length = 8) : (blockOf l).toList = l := by
  apply List.ext_getElem
  · simp [h]
  · intro i h1 h2
    simp [blockOf, h2]

/-- `blockOf` looks at the first 8 bytes only. -/
theorem blockOf_take (l : List Byte) (n : Nat) (h : 8 ≤ n) : blockOf (l.take n) = blockOf l := by
  ext1 i hi
  have : i < n := by omega
  simp [this]

@[simp] theorem xorBytes_length : ∀ k x : List Byte, x.length ≤ k.length →
    (xorBytes k x).length = x.length
  | [], [], _ => rfl
  | _ :: _, [], _ => rfl
  | _ :: k, _ :: x, h => by
    simp only [xorBytes, List.length_cons]
    rw [xorBytes_length k x (by simpa using h)]

/-- Exclusive-or with the same keystream twice gives the data back. -/
theorem xorBytes_cancel : ∀ k x : List Byte, x.length ≤ k.length →
    xorBytes k (xorBytes k x) = x
  | [], [], _ => rfl
  | _ :: _, [], _ => rfl
  | _ :: k, _ :: x, h => by
    simp only [xorBytes, ← BitVec.xor_assoc, BitVec.xor_self, BitVec.zero_xor]
    rw [xorBytes_cancel k x (by simpa using h)]

end Sys2Proof.Machine
end

