-- ==== Sys2Proof/Laws/Commands.lean ====
section
/-! SUPPORT. What the shared operations of the commands can do: the range check, the block loop of CE_ENC
and CE_DEC, the rounds of FS_ENC and FS_DEC, and the undoing of a double round. -/

namespace Sys2Proof.Machine

/-! ## The range check -/

theorem window_fits_iff (aw base n : Nat) :
    Window.fits aw { base := base, size := n } = true ↔ n = 0 ∨ base + n ≤ 2 ^ aw := by
  simp [Window.fits]

theorem keyWindows_fit (aw key off len : Nat) :
    windowsFit aw (keyWindows key off len) = true ↔ len = 0 ∨ key + off + len ≤ 2 ^ aw := by
  simp [windowsFit, keyWindows, window_fits_iff]

theorem passwordWindows_fit (aw pw len : Nat) :
    windowsFit aw (passwordWindows pw len) = true ↔ len = 0 ∨ pw + len ≤ 2 ^ aw := by
  simp [windowsFit, passwordWindows, window_fits_iff]

theorem streamWindows_fit (aw src dst len : Nat) :
    windowsFit aw (streamWindows src dst len) = true ↔
      (len = 0 ∨ src + len ≤ 2 ^ aw) ∧ (len = 0 ∨ dst + len ≤ 2 ^ aw) := by
  simp [windowsFit, streamWindows, window_fits_iff]

theorem blockWindows_fit (aw src dst len : Nat) :
    windowsFit aw (blockWindows src dst len) = true ↔
      (floor8 len = 0 ∨ src + floor8 len ≤ 2 ^ aw) ∧
        (floor8 len = 0 ∨ dst + floor8 len ≤ 2 ^ aw) := by
  simp [windowsFit, blockWindows, window_fits_iff]

theorem rangeChecked_fits {ws : List Window} {s : State} (body : State → State)
    (h : windowsFit s.cfg.aw ws = true) : rangeChecked ws body s = .next (body s) := by
  simp [rangeChecked, h]

theorem rangeChecked_past {ws : List Window} {s : State} (body : State → State)
    (h : windowsFit s.cfg.aw ws = false) :
    rangeChecked ws body s = .next (raiseError .errRange s) := by simp [rangeChecked, h]

/-- Everything a range-checked command can do. -/
theorem rangeChecked_cases (ws : List Window) (body : State → State) (s : State) :
    (windowsFit s.cfg.aw ws = true ∧ rangeChecked ws body s = .next (body s)) ∨
      (windowsFit s.cfg.aw ws = false ∧
        rangeChecked ws body s = .next (raiseError .errRange s)) := by
  cases h : windowsFit s.cfg.aw ws
  · exact .inr ⟨rfl, rangeChecked_past body h⟩
  · exact .inl ⟨rfl, rangeChecked_fits body h⟩

/-! ## The block loop of CE_ENC and CE_DEC -/

theorem floor8_eq (n : Nat) : floor8 n = 8 * (n / 8) := by
  unfold floor8
  omega

theorem blockLoop_empty (f : Block → Block) (src dst : Nat) {len : Nat} (h : len < 8) (m : Memory) :
    blockLoop f src dst len m = m := by
  simp [blockLoop, Nat.div_eq_of_lt h]

/-- `n` blocks of the loop. -/
theorem blockFold_succ (f : Block → Block) (src dst n : Nat) (m : Memory) :
    (List.range (n + 1)).foldl (fun m n => blockAt f src dst (8 * n) m) m =
      blockAt f src dst (8 * n)
        ((List.range n).foldl (fun m n => blockAt f src dst (8 * n) m) m) := by
  simp [List.range_succ, List.foldl_append]

theorem blockFold_read_other (f : Block → Block) (src dst : Nat) (m : Memory) :
    ∀ n x, (x < dst ∨ dst + 8 * n ≤ x) →
      ((List.range n).foldl (fun m n => blockAt f src dst (8 * n) m) m).read x = m.read x
  | 0, _, _ => rfl
  | n + 1, x, h => by
    rw [blockFold_succ, blockAt, read_memWrite_other _ _ _ _ (by simp; omega)]
    exact blockFold_read_other f src dst m n x (by omega)

/-- The block loop writes its destination window and nothing else. -/
theorem blockLoop_read_other (f : Block → Block) (src dst len : Nat) (m : Memory) (x : Nat)
    (h : x < dst ∨ dst + floor8 len ≤ x) : (blockLoop f src dst len m).read x = m.read x :=
  blockFold_read_other f src dst m (len / 8) x (by rw [floor8_eq] at h; omega)

theorem blockLoop_wf (f : Block → Block) (src dst len : Nat) {m : Memory} (h : m.wf = true) :
    (blockLoop f src dst len m).wf = true := by
  unfold blockLoop
  induction len / 8 with
  | zero => exact h
  | succ n ih => rw [blockFold_succ]; exact wf_memWrite _ _ ih

theorem blockLoop_within (f : Block → Block) (src dst len : Nat) {aw : Nat} {m : Memory}
    (hd : floor8 len = 0 ∨ dst + floor8 len ≤ 2 ^ aw) (h : Memory.within aw m = true) :
    Memory.within aw (blockLoop f src dst len m) = true := by
  unfold blockLoop
  rw [floor8_eq] at hd
  revert hd
  induction len / 8 with
  | zero => intro _; exact h
  | succ n ih =>
    intro hd
    rw [blockFold_succ]
    exact within_memWrite _ _ (by simp; omega) (ih (by omega))

/-! ## The rounds of FS_ENC and FS_DEC -/

/-- What a run of stream rounds may change: DATA inside the destination window, and FB. -/
structure StreamFrame (s t : State) (dst n : Nat) : Prop where
  sched : t.sched = s.sched
  wk : t.wk = s.wk
  resp : t.resp = s.resp
  port : t.port = s.port
  cfg : t.cfg = s.cfg
  outside : ∀ x, (x < dst ∨ dst + n ≤ x) → t.mem.read x = s.mem.read x
  wf : s.mem.wf = true → t.mem.wf = true
  within : dst + n ≤ 2 ^ s.cfg.aw → Memory.within s.cfg.aw s.mem = true →
    Memory.within s.cfg.aw t.mem = true

theorem StreamFrame.refl (s : State) (dst n : Nat) : StreamFrame s s dst n :=
  ⟨rfl, rfl, rfl, rfl, rfl, fun _ _ => rfl, id, fun _ h => h⟩

/-- Two runs one after the other, each inside a window of the whole. -/
theorem StreamFrame.trans {s t u : State} {d1 n1 d2 n2 dst n : Nat} (h1 : StreamFrame s t d1 n1)
    (h2 : StreamFrame t u d2 n2) (b1 : dst ≤ d1) (e1 : d1 + n1 ≤ dst + n) (b2 : dst ≤ d2)
    (e2 : d2 + n2 ≤ dst + n) : StreamFrame s u dst n where
  sched := h2.sched.trans h1.sched
  wk := h2.wk.trans h1.wk
  resp := h2.resp.trans h1.resp
  port := h2.port.trans h1.port
  cfg := h2.cfg.trans h1.cfg
  outside x hx := (h2.outside x (by omega)).trans (h1.outside x (by omega))
  wf h := h2.wf (h1.wf h)
  within hd h := by
    have hw := h2.within (by rw [h1.cfg]; omega) (by rw [h1.cfg]; exact h1.within (by omega) h)
    rwa [h1.cfg] at hw

theorem fullRoundAt_frame (round : Schedule → Block → Block → Block × Block) (src dst o : Nat)
    (s : State) : StreamFrame s (fullRoundAt round src dst o s) (dst + o) 8 where
  sched := rfl
  wk := rfl
  resp := rfl
  port := rfl
  cfg := rfl
  outside x hx := read_memWrite_other _ _ _ _ (by simpa using hx)
  wf h := wf_memWrite _ _ h
  within hd h := within_memWrite _ _ (by simp; omega) h

theorem fsTail_length (k : Schedule) (fb : Block) {x : List Byte} (h : x.length ≤ 8) :
    (fsTail k fb x).1.length = x.length := xorBytes_length _ _ (by simpa using h)

theorem tailRoundAt_frame (src dst o n : Nat) (s : State) (h : n ≤ 8) :
    StreamFrame s (tailRoundAt src dst o n s) (dst + o) n where
  sched := rfl
  wk := rfl
  resp := rfl
  port := rfl
  cfg := rfl
  outside x hx := read_memWrite_other _ _ _ _ (by rwa [fsTail_length _ _ (by simpa using h), memRead_length])
  wf h := wf_memWrite _ _ h
  within hd hw := within_memWrite _ _ (by rw [fsTail_length _ _ (by simpa using h), memRead_length]; omega) hw

/-- The chosen round, by the number of bytes not yet processed (R160). -/
theorem fsDispatch_full (dir : Direction) {r : Nat} (h : 8 ≤ r) :
    fsDispatch dir r = match dir with | .enc => .fullEnc | .dec => .fullDec := by
  cases dir <;> simp [fsDispatch, h]

theorem fsDispatch_tail (dir : Direction) {r : Nat} (h : r < 8) (h0 : r ≠ 0) :
    fsDispatch dir r = .tail := by simp [fsDispatch, h0, Nat.not_le.mpr h]

theorem fsDispatch_done (dir : Direction) : fsDispatch dir 0 = .done := rfl

/-- The full round of a direction. -/
def fullRound : Direction → Schedule → Block → Block → Block × Block
  | .enc => fsFullEnc
  | .dec => fsFullDec

theorem streamLoop_full (dir : Direction) (src dst fuel o : Nat) {r : Nat} (h : 8 ≤ r) (s : State) :
    streamLoop dir src dst (fuel + 1) o r s =
      streamLoop dir src dst fuel (o + 8) (r - 8) (fullRoundAt (fullRound dir) src dst o s) := by
  rw [streamLoop, fsDispatch_full dir h]
  cases dir <;> rfl

theorem streamLoop_tail (dir : Direction) (src dst fuel o : Nat) {r : Nat} (h : r < 8) (h0 : r ≠ 0)
    (s : State) : streamLoop dir src dst (fuel + 1) o r s = tailRoundAt src dst o r s := by
  rw [streamLoop, fsDispatch_tail dir h h0]

theorem streamLoop_done (dir : Direction) (src dst fuel o : Nat) (s : State) :
    streamLoop dir src dst fuel o 0 s = s := by
  cases fuel <;> rfl

/-- The rounds change DATA inside the destination window, FB, and nothing else. -/
theorem streamLoop_frame (dir : Direction) (src dst : Nat) : ∀ (fuel o r : Nat) (s : State),
    StreamFrame s (streamLoop dir src dst fuel o r s) (dst + o) r
  | 0, o, r, s => StreamFrame.refl s _ _
  | fuel + 1, o, r, s => by
    by_cases h8 : 8 ≤ r
    · rw [streamLoop_full dir src dst fuel o h8]
      refine (fullRoundAt_frame (fullRound dir) src dst o s).trans
        (streamLoop_frame dir src dst fuel (o + 8) (r - 8) _) ?_ ?_ ?_ ?_ <;> omega
    · by_cases h0 : r = 0
      · subst h0
        rw [streamLoop_done]
        exact StreamFrame.refl s _ _
      · rw [streamLoop_tail dir src dst fuel o (by omega) h0]
        exact tailRoundAt_frame src dst o r s (by omega)

theorem runStream_frame (dir : Direction) (src dst len : Nat) (s : State) :
    StreamFrame s (runStream dir src dst len s) dst len :=
  streamLoop_frame dir src dst (len / 8 + 1) 0 len s

/-! ## The same rounds over a byte sequence -/

theorem byteLoop_full (dir : Direction) (k : Schedule) (fuel : Nat) (fb : Block) {m : List Byte}
    (h : 8 ≤ m.length) :
    byteLoop dir k (fuel + 1) fb m =
      ((fullRound dir k fb (blockOf m)).1.toList ++
          (byteLoop dir k fuel (fullRound dir k fb (blockOf m)).2 (m.drop 8)).1,
        (byteLoop dir k fuel (fullRound dir k fb (blockOf m)).2 (m.drop 8)).2) := by
  rw [byteLoop, fsDispatch_full dir h]
  cases dir <;> rfl

theorem byteLoop_tail (dir : Direction) (k : Schedule) (fuel : Nat) (fb : Block) {m : List Byte}
    (h : m.length < 8) (h0 : m ≠ []) : byteLoop dir k (fuel + 1) fb m = fsTail k fb m := by
  rw [byteLoop, fsDispatch_tail dir h (by simpa using h0)]

theorem byteLoop_nil (dir : Direction) (k : Schedule) (fuel : Nat) (fb : Block) :
    byteLoop dir k fuel fb [] = ([], fb) := by
  cases fuel <;> rfl

theorem streamBytes_full (dir : Direction) (k : Schedule) (fb : Block) {m : List Byte}
    (h : 8 ≤ m.length) :
    streamBytes dir k fb m =
      ((fullRound dir k fb (blockOf m)).1.toList ++
          (streamBytes dir k (fullRound dir k fb (blockOf m)).2 (m.drop 8)).1,
        (streamBytes dir k (fullRound dir k fb (blockOf m)).2 (m.drop 8)).2) := by
  unfold streamBytes
  rw [show m.length / 8 + 1 = ((m.drop 8).length / 8 + 1) + 1 by rw [List.length_drop]; omega,
    byteLoop_full _ _ _ _ h]

theorem streamBytes_tail (dir : Direction) (k : Schedule) (fb : Block) {m : List Byte}
    (h : m.length < 8) (h0 : m ≠ []) : streamBytes dir k fb m = fsTail k fb m := by
  unfold streamBytes
  rw [byteLoop_tail _ _ _ _ h h0]

theorem streamBytes_nil (dir : Direction) (k : Schedule) (fb : Block) :
    streamBytes dir k fb [] = ([], fb) := byteLoop_nil ..

/-- Induction over a message in the chunks a stream command processes: nothing, a tail, a full chunk
and the rest. -/
theorem message_induction {P : List Byte → Prop} (done : P [])
    (tail : ∀ m, m ≠ [] → m.length < 8 → P m) (full : ∀ m, 8 ≤ m.length → P (m.drop 8) → P m) :
    ∀ m, P m := by
  have bounded : ∀ n, ∀ m : List Byte, m.length ≤ n → P m := by
    intro n
    induction n with
    | zero =>
      intro m hm
      rwa [List.length_eq_zero_iff.mp (Nat.le_zero.mp hm)]
    | succ n ih =>
      intro m hm
      by_cases h8 : 8 ≤ m.length
      · exact full m h8 (ih _ (by rw [List.length_drop]; omega))
      · by_cases he : m = []
        · rwa [he]
        · exact tail m he (by omega)
  exact fun m => bounded _ m le_rfl

/-! ## One chunk at a time -/

/-- The block loop is its first block and then the loop on the rest. -/
theorem blockLoop_peel (f : Block → Block) (src dst : Nat) {len : Nat} (h : 8 ≤ len) (m : Memory) :
    blockLoop f src dst len m =
      blockLoop f (src + 8) (dst + 8) (len - 8) (blockAt f src dst 0 m) := by
  have shift : ∀ (m : Memory) (n : Nat),
      blockAt f src dst (8 * n + 8) m = blockAt f (src + 8) (dst + 8) (8 * n) m := by
    intro m n
    unfold blockAt
    rw [show dst + (8 * n + 8) = dst + 8 + 8 * n by omega,
      show src + (8 * n + 8) = src + 8 + 8 * n by omega]
  unfold blockLoop
  rw [show len / 8 = (len - 8) / 8 + 1 by omega, List.range_succ_eq_map, List.foldl_cons,
    List.foldl_map]
  simp only [Nat.mul_zero, Nat.succ_eq_add_one, Nat.mul_add, Nat.mul_one, shift]

theorem streamLoop_shift (dir : Direction) (src dst : Nat) : ∀ (fuel o r : Nat) (s : State),
    streamLoop dir (src + 8) (dst + 8) fuel o r s = streamLoop dir src dst fuel (o + 8) r s
  | 0, _, _, _ => rfl
  | fuel + 1, o, r, s => by
    have es : src + 8 + o = src + (o + 8) := by omega
    have ed : dst + 8 + o = dst + (o + 8) := by omega
    by_cases h8 : 8 ≤ r
    · rw [streamLoop_full _ _ _ _ _ h8, streamLoop_full _ _ _ _ _ h8, streamLoop_shift dir src dst fuel,
        fullRoundAt, fullRoundAt, es, ed]
    · by_cases h0 : r = 0
      · subst h0
        rw [streamLoop_done, streamLoop_done]
      · rw [streamLoop_tail _ _ _ _ _ (by omega) h0, streamLoop_tail _ _ _ _ _ (by omega) h0,
          tailRoundAt, tailRoundAt, es, ed]

/-- A stream of 8 bytes or more is a full round and then the stream of the rest. -/
theorem runStream_full (dir : Direction) (src dst : Nat) {len : Nat} (h : 8 ≤ len) (s : State) :
    runStream dir src dst len s =
      runStream dir (src + 8) (dst + 8) (len - 8) (fullRoundAt (fullRound dir) src dst 0 s) := by
  unfold runStream
  rw [show len / 8 + 1 = ((len - 8) / 8 + 1) + 1 by omega, streamLoop_full _ _ _ _ _ h,
    streamLoop_shift]

theorem runStream_tail (dir : Direction) (src dst : Nat) {len : Nat} (h : len < 8) (h0 : len ≠ 0)
    (s : State) : runStream dir src dst len s = tailRoundAt src dst 0 len s := by
  unfold runStream
  rw [streamLoop_tail _ _ _ _ _ h h0]

theorem runStream_done (dir : Direction) (src dst : Nat) (s : State) :
    runStream dir src dst 0 s = s := streamLoop_done ..

/-! ## A command whose windows fit -/

theorem exec_ceEnc_fits (s : State) (src dst len : Nat) (h1 : FitsData s src (floor8 len))
    (h2 : FitsData s dst (floor8 len)) :
    exec (.ceEnc src dst len) s =
      .next { s with mem := blockLoop (encBlk s.sched) src dst len s.mem, resp := some .ok } := by
  simp only [exec, execCeEnc]
  rw [rangeChecked_fits _ ((blockWindows_fit ..).2 ⟨h1, h2⟩)]
  rfl

theorem exec_ceDec_fits (s : State) (src dst len : Nat) (h1 : FitsData s src (floor8 len))
    (h2 : FitsData s dst (floor8 len)) :
    exec (.ceDec src dst len) s =
      .next { s with mem := blockLoop (decBlk s.sched) src dst len s.mem, resp := some .ok } := by
  simp only [exec, execCeDec]
  rw [rangeChecked_fits _ ((blockWindows_fit ..).2 ⟨h1, h2⟩)]
  rfl

theorem exec_fsEnc_fits (s : State) (src dst len : Nat) (h1 : FitsData s src len)
    (h2 : FitsData s dst len) :
    exec (.fsEnc src dst len) s = .next (respondOk (runStream .enc src dst len s)) := by
  simp only [exec, execFsEnc]
  rw [rangeChecked_fits _ ((streamWindows_fit ..).2 ⟨h1, h2⟩)]

theorem exec_fsDec_fits (s : State) (src dst len : Nat) (h1 : FitsData s src len)
    (h2 : FitsData s dst len) :
    exec (.fsDec src dst len) s = .next (respondOk (runStream .dec src dst len s)) := by
  simp only [exec, execFsDec]
  rw [rangeChecked_fits _ ((streamWindows_fit ..).2 ⟨h1, h2⟩)]

/-! ## Undoing a double round -/

/-- A double round with the two P-array words exchanged, on the two words exchanged, undoes a double
round: only `a ^ a = 0` is used (R132). -/
theorem doubleRound_undo (k : Schedule) (u v : Word) (hl : Word × Word) :
    doubleRound k v u (doubleRound k u v hl).swap = hl.swap := by
  simp [doubleRound, Prod.swap]

end Sys2Proof.Machine
end

