-- ==== Sys2Proof/Laws/Decode.lean ====
section
/-! SUPPORT. What the decoder can answer, said once (30_encoding.md R90 to R96). -/

namespace Sys2Proof

/-- Operands that fit reach the block whole. -/
theorem onWires_of_fits {aw n : Nat} (h : fitsWires aw n = true) : onWires aw n = n :=
  Nat.mod_eq_of_lt (of_decide_eq_true h)

/-- What the wires carry fits on them. -/
theorem fits_onWires (aw n : Nat) : fitsWires aw (onWires aw n) = true :=
  decide_eq_true (Nat.mod_lt _ (Nat.two_pow_pos aw))

/-- Every legal opcode byte is the byte of its two fields. -/
theorem opByte_of_fields : ∀ op : BitVec 8, opReserved op = 0 → op = opByte (opUnit op) (opFn op) := by
  decide +kernel

/-- Everything a transaction that decodes can be: its opcode byte is the command's, its operands are the
low bits on the wires, and the command is well-formed. -/
theorem decode_fields {aw : Nat} {t : Transaction} {i : Instr} (h : decode aw t = .ok i) :
    t.op = (encode i).op ∧ (encode i).a = onWires aw t.a ∧ (encode i).b = onWires aw t.b ∧
      (encode i).len = onWires aw t.len ∧ WellFormed aw i = true := by
  have unit : ∀ u : BitVec 1, u ≠ 0 → u = 1 := by decide
  have fn : ∀ f : BitVec 2, f ≠ 0 → f ≠ 1 → f ≠ 2 → f = 3 := by decide
  unfold decode at h
  split at h
  · cases h
  · rename_i hr
    have ho := opByte_of_fields t.op (Decidable.not_not.mp hr)
    split at h
    · cases h
    · rename_i h0
      dsimp only at h
      split at h <;> rename_i hu <;> split at h <;> rename_i h1
      on_goal 2 => split at h <;> rename_i h2
      on_goal 5 => split at h <;> rename_i h2
      all_goals
        cases h
        refine ⟨ho.trans ?_, rfl, rfl, rfl, by simp [WellFormed, fits_onWires]⟩
        simp only [encode]
        congr 1
        all_goals first | assumption | exact unit _ hu | exact fn _ h0 h1 h2

end Sys2Proof
end

