-- ==== Sys2Proof/Laws/Exec.lean ====
section
/-! SUPPORT. What performing any command can do, said once: the inversion lemma of `exec`. -/

namespace Sys2Proof.Machine

/-- Whether a command builds a schedule (10_state.md R31). -/
def buildsSchedule : Instr → Bool
  | .ceInit _ _ _ | .fsInit _ _ _ => true
  | .ceEnc _ _ _ | .ceDec _ _ _ | .fsEnc _ _ _ | .fsDec _ _ _ => false

/-- Whether a command may write FB (R31). -/
def writesFeedback : Instr → Bool
  | .fsInit _ _ _ | .fsEnc _ _ _ | .fsDec _ _ _ => true
  | .ceInit _ _ _ | .ceEnc _ _ _ | .ceDec _ _ _ => false

/-- The window of DATA a command may write (R31, 20_memory.md R67). -/
def destWindow : Instr → Window
  | .ceInit _ _ _ | .fsInit _ _ _ => { base := 0, size := 0 }
  | .ceEnc _ dst len | .ceDec _ dst len => { base := dst, size := floor8 len }
  | .fsEnc _ dst len | .fsDec _ dst len => { base := dst, size := len }

/-- Everything a command leaves unchanged. -/
structure ExecFrame (i : Instr) (s t : State) : Prop where
  wk : t.wk = s.wk
  port : t.port = s.port
  cfg : t.cfg = s.cfg
  resp : ∃ r, t.resp = some r
  sched : buildsSchedule i = false → t.sched = s.sched
  fb : writesFeedback i = false → t.fb = s.fb
  outside : ∀ x, (x < (destWindow i).base ∨ (destWindow i).base + (destWindow i).size ≤ x) →
    t.mem.read x = s.mem.read x
  wf : s.mem.wf = true → t.mem.wf = true
  within : Memory.within s.cfg.aw s.mem = true → Memory.within s.cfg.aw t.mem = true

theorem raiseError_frame (i : Instr) (e : Response) (s : State) : ExecFrame i s (raiseError e s) :=
  ⟨rfl, rfl, rfl, ⟨_, rfl⟩, fun _ => rfl, fun _ => rfl, fun _ _ => rfl, id, id⟩

theorem execCeInit_frame (key off len : Nat) (s : State) :
    ∃ t, execCeInit key off len s = .next t ∧ ExecFrame (.ceInit key off len) s t := by
  unfold execCeInit
  rcases rangeChecked_cases (keyWindows key off len) _ s with ⟨_, h⟩ | ⟨_, h⟩ <;> rw [h]
  · exact ⟨_, rfl, rfl, rfl, rfl, ⟨_, rfl⟩, by simp [buildsSchedule], fun _ => rfl, fun _ _ => rfl, id, id⟩
  · exact ⟨_, rfl, raiseError_frame _ _ s⟩

/-- What CE_ENC and CE_DEC share. -/
theorem blockCommand_frame {i : Instr} (f : State → Block → Block) (src dst len : Nat) (s : State)
    (hi : destWindow i = { base := dst, size := floor8 len }) :
    ∃ t, rangeChecked (blockWindows src dst len)
        (fun s => respondOk (s.setMem (blockLoop (f s) src dst len s.mem))) s = .next t ∧
      ExecFrame i s t := by
  rcases rangeChecked_cases (blockWindows src dst len)
    (fun s => respondOk (s.setMem (blockLoop (f s) src dst len s.mem))) s with ⟨hf, h⟩ | ⟨_, h⟩ <;> rw [h]
  · refine ⟨_, rfl, rfl, rfl, rfl, ⟨_, rfl⟩, fun _ => rfl, fun _ => rfl, ?_, ?_, ?_⟩
    · rw [hi]
      exact fun x hx => blockLoop_read_other (f s) src dst len s.mem x hx
    · exact blockLoop_wf (f s) src dst len
    · exact blockLoop_within (f s) src dst len ((blockWindows_fit ..).1 hf).2
  · exact ⟨_, rfl, raiseError_frame _ _ s⟩

/-- What FS_ENC and FS_DEC share. -/
theorem streamCommand_frame {i : Instr} (dir : Direction) (src dst len : Nat) (s : State)
    (hi : destWindow i = { base := dst, size := len }) (hw : writesFeedback i = true) :
    ∃ t, rangeChecked (streamWindows src dst len)
        (fun s => respondOk (runStream dir src dst len s)) s = .next t ∧ ExecFrame i s t := by
  have fr := runStream_frame dir src dst len s
  rcases rangeChecked_cases (streamWindows src dst len)
    (fun s => respondOk (runStream dir src dst len s)) s with ⟨hf, h⟩ | ⟨_, h⟩ <;> rw [h]
  · refine ⟨_, rfl, fr.wk, fr.port, fr.cfg, ⟨_, rfl⟩, fun _ => fr.sched, by simp [hw], ?_, fr.wf, ?_⟩
    · rw [hi]
      exact fr.outside
    · rcases ((streamWindows_fit ..).1 hf).2 with h0 | hd
      · subst h0
        intro hm
        simpa [respondOk, runStream, streamLoop_done] using hm
      · exact fr.within hd
  · exact ⟨_, rfl, raiseError_frame _ _ s⟩

theorem execFsInit_frame (pw b len : Nat) (s : State) :
    ∃ t, execFsInit pw b len s = .next t ∧ ExecFrame (.fsInit pw b len) s t := by
  unfold execFsInit
  rcases rangeChecked_cases (passwordWindows pw len) (startSession pw len) s with ⟨_, h⟩ | ⟨_, h⟩ <;> rw [h]
  · refine ⟨_, rfl, ?_⟩
    simp only [startSession]
    split <;>
      exact ⟨rfl, rfl, rfl, ⟨_, rfl⟩, by simp [buildsSchedule], by simp [writesFeedback],
        fun _ _ => rfl, id, id⟩
  · exact ⟨_, rfl, raiseError_frame _ _ s⟩

/-- Every command ends in a next state and leaves unchanged what its frame says. -/
theorem exec_frame (i : Instr) (s : State) : ∃ t, exec i s = .next t ∧ ExecFrame i s t := by
  cases i with
  | ceInit key off len => exact execCeInit_frame key off len s
  | ceEnc src dst len => exact blockCommand_frame (fun s => encBlk s.sched) src dst len s rfl
  | ceDec src dst len => exact blockCommand_frame (fun s => decBlk s.sched) src dst len s rfl
  | fsInit pw b len => exact execFsInit_frame pw b len s
  | fsEnc src dst len => exact streamCommand_frame .enc src dst len s rfl rfl
  | fsDec src dst len => exact streamCommand_frame .dec src dst len s rfl rfl

end Sys2Proof.Machine
end

