-- ==== Sys2Proof/Laws/PerInstr.lean ====
section
/-! SUPPORT. A fact about every command as syntax, one lemma per constructor: the transaction that presents
it carries its row's opcode byte (30_encoding.md R93), and fits on the wires exactly when the command is
well-formed (R90, R94). -/

namespace Sys2Proof.Laws.OpcodeOfRow

/-- The opcode byte of the row a command's mnemonic names is the one its transaction carries, and the
transaction fits on `aw` wires exactly when the command is well-formed. -/
def Statement (i : Instr) : Prop :=
  (∃ r ∈ opcodeRows, r.mnemonic = i.mnemonic ∧ r.pattern = (encode i).op) ∧
    ∀ aw, (encode i).fits aw = WellFormed aw i

theorem ceInit (key off len : Nat) : Statement (.ceInit key off len) :=
  ⟨⟨{ mnemonic := "CE_INIT", pattern := 0x01, mask := 0xFF }, by decide, rfl, rfl⟩, fun _ => rfl⟩

theorem ceEnc (src dst len : Nat) : Statement (.ceEnc src dst len) :=
  ⟨⟨{ mnemonic := "CE_ENC", pattern := 0x02, mask := 0xFF }, by decide, rfl, rfl⟩, fun _ => rfl⟩

theorem ceDec (src dst len : Nat) : Statement (.ceDec src dst len) :=
  ⟨⟨{ mnemonic := "CE_DEC", pattern := 0x03, mask := 0xFF }, by decide, rfl, rfl⟩, fun _ => rfl⟩

theorem fsInit (pw ignored len : Nat) : Statement (.fsInit pw ignored len) :=
  ⟨⟨{ mnemonic := "FS_INIT", pattern := 0x05, mask := 0xFF }, by decide, rfl, rfl⟩, fun _ => rfl⟩

theorem fsEnc (src dst len : Nat) : Statement (.fsEnc src dst len) :=
  ⟨⟨{ mnemonic := "FS_ENC", pattern := 0x06, mask := 0xFF }, by decide, rfl, rfl⟩, fun _ => rfl⟩

theorem fsDec (src dst len : Nat) : Statement (.fsDec src dst len) :=
  ⟨⟨{ mnemonic := "FS_DEC", pattern := 0x07, mask := 0xFF }, by decide, rfl, rfl⟩, fun _ => rfl⟩

end Sys2Proof.Laws.OpcodeOfRow
end

