-- ==== Sys2Proof/Laws/Schedule.lean ====
section
/-! SUPPORT. The laws of the key schedule: what KEYMIX leaves alone, the 1042 slots of FILL, and FILL as one
pass over them (40_cipher_engine.md R125, R127). -/

namespace Sys2Proof.Machine

section keyMix
variable (key : List Byte) (k : Schedule)
theorem keyMix_p (i : Nat) (h : i < 18) : (keyMix key k).p[i] = k.p[i] ^^^ keyWord key i := by
  simp [keyMix]
@[simp] theorem keyMix_s1 : (keyMix key k).s1 = k.s1 := by simp only [keyMix]
@[simp] theorem keyMix_s2 : (keyMix key k).s2 = k.s2 := by simp only [keyMix]
@[simp] theorem keyMix_s3 : (keyMix key k).s3 = k.s3 := by simp only [keyMix]
@[simp] theorem keyMix_s4 : (keyMix key k).s4 = k.s4 := by simp only [keyMix]
end keyMix

/-- The first slot of an array, in the order of `slotWord`. -/
def slotBase : SchedArray → Nat
  | .p => 0
  | .s1 => 18
  | .s2 => 274
  | .s3 => 530
  | .s4 => 786

/-- How many words an array has. -/
def slotCount : SchedArray → Nat
  | .p => 18
  | .s1 | .s2 | .s3 | .s4 => 256

theorem getD_setIfInBounds {n : Nat} (v : Vector Word n) (i j : Nat) (w : Word) (hi : i < n) :
    (v.setIfInBounds i w).toList.getD j 0 = if j = i then w else v.toList.getD j 0 := by
  simp only [List.getD_eq_getElem?_getD, Vector.getElem?_toList]
  rw [Vector.getElem?_setIfInBounds]
  by_cases h : i = j
  · subst h
    simp [hi]
  · have : ¬ j = i := fun e => h e.symm
    simp [h, this]

theorem slotWord_writeSlot_cases (k : Schedule) (arr : SchedArray) (i : Nat) (w : Word)
    (hi : i < slotCount arr) (j : Nat) (hj : j < 1042) :
    (j = slotBase arr + i → slotWord (writeSlot k arr i w) j = w) ∧
      (j ≠ slotBase arr + i → slotWord (writeSlot k arr i w) j = slotWord k j) := by
  cases arr <;> simp only [slotCount] at hi <;>
    simp only [slotBase, writeSlot, slotWord, getD_setIfInBounds _ _ _ _ hi] <;>
    refine ⟨fun h => ?_, fun h => ?_⟩ <;> repeat' split
  all_goals first | rfl | omega

/-- Writing one word changes its slot and no other. -/
theorem slotWord_writeSlot (k : Schedule) (arr : SchedArray) (i : Nat) (w : Word)
    (hi : i < slotCount arr) (j : Nat) (hj : j < 1042) :
    slotWord (writeSlot k arr i w) j = if j = slotBase arr + i then w else slotWord k j := by
  split
  · exact (slotWord_writeSlot_cases k arr i w hi j hj).1 ‹_›
  · exact (slotWord_writeSlot_cases k arr i w hi j hj).2 ‹_›

/-- The pairs of slots FILL writes, in its order: an array and half the index of the first of the two. -/
def fillOps : List (SchedArray × Nat) :=
  fillStages.flatMap fun stage => (List.range stage.2).map fun i => (stage.1, i)

/-- FILL is one pass over all its pairs of slots. -/
theorem fill_eq_foldl (k : Schedule) :
    fill k = (fillOps.foldl (fun c op => fillStep op.1 c op.2) (zeroBlock, k)).2 := by
  simp only [fill, fillOps, List.foldl_flatMap, List.foldl_map]
  rfl

end Sys2Proof.Machine
end

