-- ==== Sys2Proof/Laws/Step.lean ====
section
/-! SUPPORT. What a step can do, said once: the inversion lemma of `step`. -/

namespace Sys2Proof.Machine

/-- Everything a step that answers a next state did: nothing, the reset input, a host write that fits in
DATA, a legal command, or an illegal one. -/
theorem step_cases {s t : State} (hs : step s = .next t) :
    (s.port = [] ∧ t = s) ∨
      (∃ rest, s.port = .assertReset :: rest ∧
        t = { s with
          port := rest, sched := Schedule.zero, wk := false, fb := s.cfg.fbReset, resp := none }) ∨
      (∃ addr bytes rest, s.port = .writeData addr bytes :: rest ∧
        (bytes.length = 0 ∨ addr + bytes.length ≤ 2 ^ s.cfg.aw) ∧
        t = { s with port := rest, mem := memWrite s.mem addr bytes }) ∨
      (∃ tr rest i, s.port = .command tr :: rest ∧ decode s.cfg.aw tr = .ok i ∧
        exec i (s.setPort rest) = .next t ∧ ExecFrame i (s.setPort rest) t) ∨
      ∃ tr rest, s.port = .command tr :: rest ∧
        t = { s with port := rest, resp := some .errIllegalCmd } := by
  unfold step at hs
  split at hs
  · cases hs
    exact .inl ⟨‹_›, rfl⟩
  · cases hs
    exact .inr (.inl ⟨_, ‹_›, rfl⟩)
  · simp only [hostWrite] at hs
    split at hs
    · rename_i hf
      cases hs
      exact .inr (.inr (.inl ⟨_, _, _, ‹_›,
        ((Bool.or_eq_true _ _).mp hf).imp of_decide_eq_true of_decide_eq_true, rfl⟩))
    · cases hs
  · rename_i tr rest hp
    split at hs
    · rename_i i hd
      obtain ⟨u, hu, fr⟩ := exec_frame i (s.setPort rest)
      have hu' := hu
      rw [hs] at hu
      cases hu
      exact .inr (.inr (.inr (.inl ⟨_, _, _, hp, hd, hu', fr⟩)))
    · cases hs
      exact .inr (.inr (.inr (.inr ⟨_, _, hp, rfl⟩)))

end Sys2Proof.Machine
end

