-- ==== Sys2Proof/Tests/Slice0.lean ====
section
/-! SUPPORT. The model's own tests. Expected values come from the spec's tables (95_test_vectors.md, 11_constants.md
R58, 50_collaborators.md R205) or are worked out by hand from a rule, as each comment says. The last part shows,
for every statement with hypotheses, a state and operands that meet them. -/

namespace Sys2Proof.Tests

open Sys2Proof.Machine

/-! ## Small states -/

/-- A never-keyed block with 16-bit addresses, `FF x 8` in FB, a digest port that fails on every password. -/
def small (mem : Memory) : State :=
  State.resetWith { aw := 16, fbReset := onesBlock, digest := .answers [] } mem

/-- DATA with one run of bytes. -/
def bytesAt (a : Nat) (v : List Byte) : Memory := memWrite [] a v

/-- `small` with one host input on the port. -/
def given (h : HostInput) (mem : Memory) : State := (small mem).setPort [h]

/-- A transaction on the port. -/
def sent (op : BitVec 8) (a b len : Nat) (mem : Memory) : State :=
  given (.command { op := op, a := a, b := b, len := len }) mem

/-- What a next state shows. -/
def seen {α : Type} (o : Outcome) (f : State → α) : Option α :=
  match o with
  | .next t => some (f t)
  | .fault _ => none
  | .refused _ => none

/-- "ABCDEFGHIJ". -/
def letters : List Byte := [0x41, 0x42, 0x43, 0x44, 0x45, 0x46, 0x47, 0x48, 0x49, 0x4A]

/-- A digest port that answers one password, `61`, with 32 zero bytes. -/
def answering (mem : Memory) : State :=
  State.resetWith
    { aw := 16, fbReset := onesBlock, digest := .answers [([0x61], some (Vector.replicate 32 0))] } mem

/-- A digest port that answers the empty password with 32 zero bytes. -/
def answeringEmpty (mem : Memory) : State :=
  State.resetWith
    { aw := 16, fbReset := onesBlock, digest := .answers [([], some (Vector.replicate 32 0))] } mem

/-! ## WellFormed -/

theorem test_wellFormed_top : WellFormed 16 (.fsEnc 0xFFFF 0xFFFF 0xFFFF) = true := by decide
theorem test_illFormed_ceInit : WellFormed 16 (.ceInit 0x10000 0 0) = false ∧
    WellFormed 16 (.ceInit 0 0x10000 0) = false ∧ WellFormed 16 (.ceInit 0 0 0x10000) = false := by decide
theorem test_illFormed_ceEnc : WellFormed 16 (.ceEnc 0x10000 0 0) = false ∧
    WellFormed 16 (.ceEnc 0 0x10000 0) = false ∧ WellFormed 16 (.ceEnc 0 0 0x10000) = false := by decide
theorem test_illFormed_ceDec : WellFormed 16 (.ceDec 0x10000 0 0) = false ∧
    WellFormed 16 (.ceDec 0 0x10000 0) = false ∧ WellFormed 16 (.ceDec 0 0 0x10000) = false := by decide
theorem test_illFormed_fsInit : WellFormed 16 (.fsInit 0x10000 0 0) = false ∧
    WellFormed 16 (.fsInit 0 0x10000 0) = false ∧ WellFormed 16 (.fsInit 0 0 0x10000) = false := by decide
theorem test_illFormed_fsEnc : WellFormed 16 (.fsEnc 0x10000 0 0) = false ∧
    WellFormed 16 (.fsEnc 0 0x10000 0) = false ∧ WellFormed 16 (.fsEnc 0 0 0x10000) = false := by decide
theorem test_illFormed_fsDec : WellFormed 16 (.fsDec 0x10000 0 0) = false ∧
    WellFormed 16 (.fsDec 0 0x10000 0) = false ∧ WellFormed 16 (.fsDec 0 0 0x10000) = false := by decide
theorem test_illFormed_transaction :
    Transaction.fits 16 { op := 1, a := 0x10000, b := 0, len := 0 } = false ∧
      Transaction.fits 16 { op := 1, a := 0, b := 0x10000, len := 0 } = false ∧
      Transaction.fits 16 { op := 1, a := 0, b := 0, len := 0x10000 } = false := by decide

/-! ## Decoding: words written out from R92 (reserved 00000, UNIT, FN) and R93 -/

theorem test_decode_ceInit :
    decode 16 { op := 0b00000_0_01, a := 0x10, b := 2, len := 3 } = .ok (.ceInit 0x10 2 3) := by decide
theorem test_decode_ceEnc :
    decode 16 { op := 0b00000_0_10, a := 0x100, b := 0x200, len := 0x17 } = .ok (.ceEnc 0x100 0x200 23) := by
  decide
theorem test_decode_ceDec :
    decode 16 { op := 0b00000_0_11, a := 0x200, b := 0x300, len := 0x10 } = .ok (.ceDec 0x200 0x300 16) := by
  decide
theorem test_decode_fsInit :
    decode 16 { op := 0b00000_1_01, a := 0, b := 0xFFFF, len := 6 } = .ok (.fsInit 0 0xFFFF 6) := by decide
theorem test_decode_fsEnc :
    decode 16 { op := 0b00000_1_10, a := 0x100, b := 0x200, len := 0x37 } = .ok (.fsEnc 0x100 0x200 55) := by
  decide
theorem test_decode_fsDec :
    decode 16 { op := 0b00000_1_11, a := 0x200, b := 0x200, len := 0x37 } = .ok (.fsDec 0x200 0x200 55) := by
  decide
/-- R96: 0x00, 0x04 and a reserved bit set. -/
theorem test_decode_illegal :
    decode 16 { op := 0x00, a := 0, b := 0, len := 0 } = .error .noFunction ∧
      decode 16 { op := 0x04, a := 0, b := 0, len := 0 } = .error .noFunction ∧
      decode 16 { op := 0x08, a := 0x100, b := 0x200, len := 8 } = .error .reservedBitsSet ∧
      decode 16 { op := 0x81, a := 0x100, b := 0x200, len := 8 } = .error .reservedBitsSet := by decide
/-- The table's numbering with `AW` = 32 (log entry 8): `op` in bits 7..0, then `a`, `b`, `len`. -/
theorem test_decodeTableWord :
    decodeTableWord 8 0b00000110 = some (.fsEnc 0 0 0) ∧
      decodeTableWord 104 0x00000037_00000200_00000100_06 = some (.fsEnc 0x100 0x200 55) ∧
      decodeTableWord 8 0b00000100 = none := by decide
/-- R98's example line, and R99's expansion. -/
theorem test_assemble :
    assemble [] "FS_ENC 0x100, 0x200, 55" = some [{ op := 0x06, a := 0x100, b := 0x200, len := 0x37 }] ∧
      assemble [("PW", 0)] "MSG_DEC PW, 6, 0x200, 0x200, 55" =
        some [{ op := 0x05, a := 0, b := 0, len := 6 }, { op := 0x07, a := 0x200, b := 0x200, len := 0x37 }] ∧
      assemble [] "FS_ENC 0x100, 0x200" = none := by decide +kernel

/-! ## Constants, F, the block operations -/

/-- R58: exclusive-or and sum of each table. -/
theorem test_constant_tables :
    pInitWords.foldl (· ^^^ ·) 0 = 0xB73AD7EA ∧ pInitWords.foldl (· + ·) 0 = 0x8E4D14CC ∧
      S1_INIT.toList.foldl (· ^^^ ·) 0 = 0x4EB4DB7F ∧ S1_INIT.toList.foldl (· + ·) 0 = 0x4B745115 ∧
      S2_INIT.toList.foldl (· ^^^ ·) 0 = 0xC727E122 ∧ S2_INIT.toList.foldl (· + ·) 0 = 0x72FF37B2 ∧
      S3_INIT.toList.foldl (· ^^^ ·) 0 = 0x462A5D01 ∧ S3_INIT.toList.foldl (· + ·) 0 = 0x2AC02B91 ∧
      S4_INIT.toList.foldl (· ^^^ ·) 0 = 0x1779E2BC ∧ S4_INIT.toList.foldl (· + ·) 0 = 0xF43E3A88 := by
  decide +kernel
/-- 95_test_vectors.md 2.1, rows 2 and 4: both grouping and carries matter there. -/
theorem test_roundF : roundF Schedule.constants 0x01020304 = 0x3CEDFF8C ∧
    roundF Schedule.constants 0x243F6A88 = 0xDB2F9C4E := by decide +kernel
/-- 95_test_vectors.md 2.2. -/
theorem test_encBlk : encBlk Schedule.constants #v[0x01, 0x23, 0x45, 0x67, 0x89, 0xAB, 0xCD, 0xEF] =
    #v[0x73, 0x8E, 0x07, 0x8D, 0x4C, 0x87, 0x03, 0xA6] := by decide +kernel
/-- 95_test_vectors.md 2.2. -/
theorem test_decBlk : decBlk Schedule.constants #v[0x73, 0x8E, 0x07, 0x8D, 0x4C, 0x87, 0x03, 0xA6] =
    #v[0x01, 0x23, 0x45, 0x67, 0x89, 0xAB, 0xCD, 0xEF] := by decide +kernel
/-- 95_test_vectors.md 2.3 (c): KEYMIX of "abc", the first two entries and the last. -/
theorem test_keyMix :
    (keyMix [0x61, 0x62, 0x63] Schedule.constants).p[0] = 0x455D09E9 ∧
      (keyMix [0x61, 0x62, 0x63] Schedule.constants).p[1] = 0xE7C069B1 ∧
      (keyMix [0x61, 0x62, 0x63] Schedule.constants).p[17] = 0xEA189978 := by decide +kernel
/-- 95_test_vectors.md 2.3 (b): the first step of FILL. -/
theorem test_fillStep :
    (fillStep .p (zeroBlock, Schedule.constants) 0).2.p[0] = 0x706D9FCC ∧
      (fillStep .p (zeroBlock, Schedule.constants) 0).2.p[1] = 0x1792D23A ∧
      (fillStep .p (zeroBlock, Schedule.constants) 0).2.p[2] = 0x13198A2E := by decide +kernel
/-- R205, "a". -/
theorem test_ripemd256 : (ripemd256 [0x61]).toList =
    [0xF9, 0x33, 0x3E, 0x45, 0xD8, 0x57, 0xF5, 0xD9, 0x0A, 0x91, 0xBA, 0xB7, 0x0A, 0x1E, 0xBA, 0x0C,
      0xFB, 0x1B, 0xE4, 0xB0, 0x78, 0x3C, 0x9A, 0xCF, 0xCD, 0x88, 0x3A, 0x91, 0x34, 0x69, 0x29, 0x25] := by
  decide +kernel

/-! ## One step of each command, `AW` = 16 -/

/-- 95_test_vectors.md 2.11, `01:FFFF:1:0`, and 2.3 (a). -/
theorem test_ceInit_constants :
    seen (step (sent 0x01 0xFFFF 1 0 [])) (fun t => (t.resp, t.sched.p[0], t.sched.p[17], t.sched.s1[0],
      t.sched.s4[255])) = some (some .ok, 0x243F6A88, 0x8979FB1B, 0xD1310BA6, 0x3AC372E6) := by
  decide +kernel
/-- 95_test_vectors.md 2.11, `01:FFFF:1:1`. -/
theorem test_ceInit_range :
    seen (step (sent 0x01 0xFFFF 1 1 [])) (fun t => (t.resp, t.sched.p[0])) = some (some .errRange, 0) := by
  decide
/-- 95_test_vectors.md, Program 5, command 2 (zero schedule). -/
theorem test_ceEnc :
    seen (step (sent 0x02 0x100 0x300 8 (bytesAt 0x100 letters))) (fun t =>
      (t.resp, memRead t.mem 0x300 9, t.fb)) =
      some (some .ok, [0x45, 0x46, 0x47, 0x48, 0x41, 0x42, 0x43, 0x44, 0], onesBlock) := by decide +kernel
/-- R69 (c) by hand on the zero schedule, where ENCBLK exchanges halves: bytes 00 to 0F at 0x100, encrypted
4 bytes higher; the second chunk reads what the first wrote. -/
theorem test_ceEnc_overlap :
    seen (step (sent 0x02 0x100 0x104 16
      (bytesAt 0x100 [0, 1, 2, 3, 4, 5, 6, 7, 8, 9, 10, 11, 12, 13, 14, 15]))) (fun t => memRead t.mem 0x100 20) =
      some [0, 1, 2, 3, 4, 5, 6, 7, 0, 1, 2, 3, 12, 13, 14, 15, 0, 1, 2, 3] := by decide +kernel
/-- By hand on the zero schedule, in place; the trailing 2 bytes keep their contents (R129). -/
theorem test_ceDec :
    seen (step (sent 0x03 0x100 0x100 10 (bytesAt 0x100 letters))) (fun t =>
      (t.resp, memRead t.mem 0x100 10)) =
      some (some .ok, [0x45, 0x46, 0x47, 0x48, 0x41, 0x42, 0x43, 0x44, 0x49, 0x4A]) := by decide +kernel
/-- 95_test_vectors.md 2.11, `02:FFFC:0:7` and `02:100:FFFC:8`, as CE_DEC. -/
theorem test_ceDec_range :
    seen (step (sent 0x03 0xFFFC 0 7 [])) (fun t => t.resp) = some (some .ok) ∧
      seen (step (sent 0x03 0x100 0xFFFC 8 [])) (fun t => t.resp) = some (some .errRange) := by
  decide
/-- 95_test_vectors.md 2.11, FS_INIT with `Digest` answering `fail`. -/
theorem test_fsInit_fail :
    seen (step { sent 0x05 0 0x1234 6 [] with fb := zeroBlock }) (fun t => (t.resp, t.fb, t.sched.p[0])) =
      some (some .errDigest, onesBlock, 0) := by decide +kernel
/-- 95_test_vectors.md 2.11, priority: `05:FFFC:0:8` leaves FB. -/
theorem test_fsInit_range :
    seen (step { sent 0x05 0xFFFC 0 8 [] with fb := zeroBlock }) (fun t => (t.resp, t.fb)) =
      some (some .errRange, zeroBlock) := by decide
/-- 95_test_vectors.md 2.12. -/
theorem test_fsEnc :
    seen (step (sent 0x06 0x100 0x200 10 (bytesAt 0x100 letters))) (fun t =>
      (t.resp, memRead t.mem 0x200 11, t.fb.toList)) =
      some (some .ok, [0xBA, 0xB9, 0xB8, 0xB7, 0xBE, 0xBD, 0xBC, 0xBB, 0x08, 0x08, 0],
        [0x04, 0x04, 0x04, 0x0C, 0x04, 0x04, 0x04, 0x0C]) := by decide +kernel
/-- 95_test_vectors.md 2.11, `06:FFF8:0:8`: a window that ends exactly at `2^16`. -/
theorem test_fsEnc_top :
    seen (step { sent 0x06 0xFFF8 0 8 [] with fb := #v[0x00, 0x11, 0x22, 0x33, 0x44, 0x55, 0x66, 0x77] })
      (fun t => (t.resp, memRead t.mem 0 8, t.fb.toList)) =
      some (some .ok, [0x44, 0x55, 0x66, 0x77, 0x00, 0x11, 0x22, 0x33],
        [0x44, 0x44, 0x44, 0x44, 0x44, 0x44, 0x44, 0x44]) := by decide +kernel
/-- 95_test_vectors.md 2.12 read backwards (R166 (a)), in place. -/
theorem test_fsDec :
    seen (step (sent 0x07 0x200 0x200 10
      (bytesAt 0x200 [0xBA, 0xB9, 0xB8, 0xB7, 0xBE, 0xBD, 0xBC, 0xBB, 0x08, 0x08]))) (fun t =>
      (t.resp, memRead t.mem 0x200 10, t.fb.toList)) =
      some (some .ok, letters, [0x04, 0x04, 0x04, 0x0C, 0x04, 0x04, 0x04, 0x0C]) := by decide +kernel
/-- 95_test_vectors.md 2.11, `06:FFFC:0:8`, as FS_DEC. -/
theorem test_fsDec_range :
    seen (step (sent 0x07 0xFFFC 0 8 [])) (fun t => (t.resp, t.fb)) = some (some .errRange, onesBlock) := by
  decide
/-- 95_test_vectors.md 2.11, priority: `08:FFFC:0:8`. -/
theorem test_illegal_first :
    seen (step (sent 0x08 0xFFFC 0 8 [])) (fun t => t.resp) = some (some .errIllegalCmd) := by decide
/-- R260, R261: the reset input on a block with a session, DATA kept. -/
theorem test_reset_input :
    seen (step { given .assertReset (bytesAt 3 [7]) with
        sched := Schedule.constants
        fb := zeroBlock
        resp := some .ok }) (fun t => (t.sched.p[0], t.sched.s4[255], t.fb, t.resp, memRead t.mem 3 1)) =
      some (0, 0, onesBlock, none, [7]) := by decide +kernel
/-- The host writes DATA (R61); writing what an unlisted byte reads as unlists it. -/
theorem test_host_write :
    seen (step (given (.writeData 4 [0, 9]) (bytesAt 4 [7]))) (fun t => t.mem) = some [(5, 9)] ∧
      step (given (.writeData 0xFFFF [1, 2]) []) = .fault .hostWriteOutsideData := ⟨by decide, rfl⟩
/-- A command placed where a step takes its next input, on the machine after reset. -/
theorem test_withFetchWord :
    seen (step (State.reset.withFetchWord 104 0x00000000_00000200_00000100_06)) (fun t => (t.resp, t.port)) =
      some (some .ok, []) := by decide
/-- R99: MSG_ENC stops at ERR_DIGEST. -/
theorem test_msgEnc_stops :
    seen (runPseudo (.msgEnc 0 6 0x100 0x200 8) (small (bytesAt 0x100 letters)))
      (fun t => (t.resp, memRead t.mem 0x200 2)) = some (some .errDigest, [0, 0]) := by decide +kernel

/-! ## Witnesses: a state and operands that meet each statement's hypotheses -/

theorem witness_DecodingAnEncodedCommandGivesItBack :
    WellFormed 16 (.ceInit 0xFFFF 0xFFFF 0xFFFF) = true ∧ WellFormed 16 (.ceEnc 0xFFFF 0 0xFFFF) = true ∧
      WellFormed 16 (.ceDec 0 0xFFFF 0) = true ∧ WellFormed 16 (.fsInit 0xFFFF 0xFFFF 0xFFFF) = true ∧
      WellFormed 16 (.fsEnc 0xFFFF 0xFFFF 0) = true ∧ WellFormed 1 (.fsDec 1 0 1) = true := by decide
theorem witness_EncodingADecodedCommandGivesItBack :
    Transaction.fits 16 { op := 0x07, a := 0xFFFF, b := 0xFFFF, len := 0xFFFF } = true ∧
      decode 16 { op := 0x07, a := 0xFFFF, b := 0xFFFF, len := 0xFFFF } = .ok (.fsDec 0xFFFF 0xFFFF 0xFFFF) := by
  decide
theorem witness_DecoderFollowsTheOpcodeMap :
    (∃ r ∈ opcodeRows, r.selects 0x07 = true) ∧ (∀ r ∈ opcodeRows, r.selects 0x08 = false) ∧
      ∀ r ∈ opcodeRows, r.selects 0x04 = false := by decide
theorem witness_StepRunsTheDecodedCommand :
    ((sent 0x02 0x100 0x300 8 []).port = .command { op := 0x02, a := 0x100, b := 0x300, len := 8 } :: [] ∧
        decode (sent 0x02 0x100 0x300 8 []).cfg.aw { op := 0x02, a := 0x100, b := 0x300, len := 8 } =
          .ok (.ceEnc 0x100 0x300 8)) ∧
      decode (small []).cfg.aw (Transaction.ofBits (small []).cfg.aw (0x01_06 % 2 ^ 16)) = .ok (.fsEnc 1 0 0) := by
  decide
theorem witness_IdleBlockDoesNothing : (small []).port = [] := rfl
theorem witness_IllegalCommandHasNoEffect :
    (sent 0x04 0xFFFC 0 8 []).port = .command { op := 0x04, a := 0xFFFC, b := 0, len := 8 } :: [] ∧
      0x04 ∉ ([0x01, 0x02, 0x03, 0x05, 0x06, 0x07] : List (BitVec 8)) := by decide
theorem witness_EveryCommandEndsWithOneResponse :
    (sent 0xFF 0 0 0 []).port = .command { op := 0xFF, a := 0, b := 0, len := 0 } :: [] := rfl
theorem witness_ErrorsArePrecise :
    seen (step (sent 0x00 0 0 0 [])) (fun t => t.resp) = some (some .errIllegalCmd) ∧
      seen (step (sent 0x02 0xFFF9 0 8 [])) (fun t => t.resp) = some (some .errRange) ∧
      seen (step (sent 0x05 0xFFFA 0 6 [])) (fun t => t.resp) = some (some .errDigest) := by decide +kernel
theorem witness_RangeErrorIsExact :
    (∃ w ∈ checkedWindows (.ceInit 0xFFFF 1 1), PastData (small []) w.1 w.2) ∧
      (∃ w ∈ checkedWindows (.ceDec 0 0xFFF9 15), PastData (small []) w.1 w.2) ∧
      (∃ w ∈ checkedWindows (.fsInit 0xFFFF 0 2), PastData (small []) w.1 w.2) ∧
      (∃ w ∈ checkedWindows (.fsEnc 0xFFFF 0 2), PastData (small []) w.1 w.2) ∧
      (∀ w ∈ checkedWindows (.ceEnc 0xFFFF 0xFFFF 7), FitsData (small []) w.1 w.2) ∧
      (∀ w ∈ checkedWindows (.fsDec 0xFFFF 0xFFFF 1), FitsData (small []) w.1 w.2) ∧
      ∀ w ∈ checkedWindows (.fsInit 0xFFFF 0 1), FitsData (small []) w.1 w.2 := by decide
theorem witness_ErrorsHaveAFixedPriority :
    ((sent 0x08 0xFFFC 0 8 []).port = .command { op := 0x08, a := 0xFFFC, b := 0, len := 8 } :: [] ∧
        0x08 ∉ ([0x01, 0x02, 0x03, 0x05, 0x06, 0x07] : List (BitVec 8))) ∧
      (∃ w ∈ checkedWindows (.fsInit 0xFFFC 0 8), PastData (small []) w.1 w.2) ∧
      (FitsData (small []) 0xFFFC 4 ∧
        digestAnswer (small []).cfg.digest (windowBytes (small []).mem 0xFFFC 4) = none) := by decide
theorem witness_ResetInputGivesTheResetState : (given .assertReset []).port = .assertReset :: [] := rfl
theorem witness_HostWritesAreOrdinaryMemory :
    ((given (.writeData 0xFFFE [1, 2]) []).port = .writeData 0xFFFE [1, 2] :: [] ∧
        FitsData (given (.writeData 0xFFFE [1, 2]) []) 0xFFFE [(1 : Byte), 2].length ∧
        (given (.writeData 0xFFFE [1, 2]) []).mem.wf = true) ∧
      (given (.writeData 0xFFFF [1, 2]) []).port = .writeData 0xFFFF [1, 2] :: [] ∧
        PastData (given (.writeData 0xFFFF [1, 2]) []) 0xFFFF [(1 : Byte), 2].length := by
  decide
theorem witness_StepKeepsTheInvariant :
    Inv (sent 0x03 0xFFF8 0xFFF8 8 (bytesAt 0xFFFF [1])) ∧
      ∃ t, step (sent 0x03 0xFFF8 0xFFF8 8 (bytesAt 0xFFFF [1])) = .next t := ⟨by decide, _, rfl⟩
theorem witness_OnlyKeyingChangesTheSchedule :
    (∃ t, step (sent 0x01 0xFFFF 1 0 []) = .next t ∧ t.sched ≠ (sent 0x01 0xFFFF 1 0 []).sched) ∧
      ∃ t, step { given .assertReset [] with sched := Schedule.constants } = .next t ∧
        t.sched ≠ Schedule.constants :=
  ⟨⟨_, rfl, fun h => absurd (congrArg (fun k => k.p[0]) h) (by decide)⟩,
    ⟨_, rfl, fun h => absurd (congrArg (fun k => k.p[0]) h) (by decide)⟩⟩
theorem witness_OnlySessionCommandsChangeFeedback :
    (∃ t, step (sent 0x06 0 0 1 []) = .next t ∧ t.fb ≠ (sent 0x06 0 0 1 []).fb) ∧
      (∃ t, step (sent 0x07 0 0 8 [(0, 1)]) = .next t ∧ t.fb ≠ (sent 0x07 0 0 8 [(0, 1)]).fb) ∧
      (∃ t, step { sent 0x05 0 0 0 [] with fb := zeroBlock } = .next t ∧ t.fb ≠ zeroBlock) ∧
      ∃ t, step { given .assertReset [] with fb := zeroBlock } = .next t ∧ t.fb ≠ zeroBlock :=
  ⟨⟨_, rfl, by decide +kernel⟩, ⟨_, rfl, by decide +kernel⟩, ⟨_, rfl, by decide +kernel⟩,
    ⟨_, rfl, by decide +kernel⟩⟩
theorem witness_DataChangesOnlyInDestinationWindows :
    (∃ t, step (given (.writeData 9 [1]) []) = .next t ∧ t.mem.read 9 ≠ (given (.writeData 9 [1]) []).mem.read 9) ∧
      (∃ t, step (sent 0x02 0 0xFFF8 15 [(3, 1)]) = .next t ∧
        t.mem.read 0xFFFF ≠ (sent 0x02 0 0xFFF8 15 [(3, 1)]).mem.read 0xFFFF) ∧
      ∃ t, step (sent 0x06 0 0xFFFF 1 []) = .next t ∧
        t.mem.read 0xFFFF ≠ (sent 0x06 0 0xFFFF 1 []).mem.read 0xFFFF :=
  ⟨⟨_, rfl, by decide⟩, ⟨_, rfl, by decide +kernel⟩, ⟨_, rfl, by decide +kernel⟩⟩
theorem witness_WeakKeyFlagIsUnobservable :
    (∃ t, step (sent 0x06 0 0 1 []) = .next t) ∧ (∃ t, step (given .assertReset []) = .next t) ∧
      step (given (.writeData 0x10000 [1]) []) = .fault .hostWriteOutsideData :=
  ⟨⟨_, rfl⟩, ⟨_, rfl⟩, rfl⟩
theorem witness_ParametersNeverChange : ∃ t, step (given .assertReset []) = .next t := ⟨_, rfl⟩
theorem witness_DataReadsBackWhatWasWritten : Memory.wf [(0, 1), (7, 2)] = true := by decide
theorem witness_CanonicalDataIsUnique :
    Memory.wf (memWrite [] 3 [0, 5]) = true ∧ Memory.wf [(4, 5)] = true ∧
      ∀ a, Memory.read (memWrite [] 3 [0, 5]) a = Memory.read [(4, 5)] a :=
  ⟨by decide, by decide, fun _ => rfl⟩
theorem witness_KeyMixIsTheWalkLoop : ([0x61] : List Byte) ≠ [] := by decide
theorem witness_KeyMixSeesExactlyTheWalk :
    ([0x61, 0x62] : List Byte) ≠ [] ∧ ([0x61, 0x62, 0x61, 0x62] : List Byte) ≠ [] ∧
      ∀ j < 72, walkByte [0x61, 0x62] j = walkByte [0x61, 0x62, 0x61, 0x62] j := by decide +kernel
theorem witness_EquivalentKeysGiveOneSchedule :
    (1 ≤ 1 ∧ 1 ≤ 100) ∧ 72 ≤ (List.replicate 72 (0x01 : Byte)).length := by decide
theorem witness_CeInitBuildsTheSchedule :
    PastData (small []) (0xFFFF + 1) 1 ∧ (0 < 4 ∧ 0xFF00 + 0xFC + 4 ≤ 2 ^ (small []).cfg.aw) := by decide
theorem witness_CeEncGoesBlockByBlock :
    PastData (small []) 0xFFF9 (floor8 8) ∧ 7 < 8 ∧
      (8 ≤ 15 ∧ FitsData (small []) 0xFFF8 (floor8 15) ∧ FitsData (small []) 0 (floor8 15)) := by decide
theorem witness_CeDecGoesBlockByBlock :
    PastData (small []) 0xFFF1 (floor8 23) ∧ 7 < 8 ∧
      (8 ≤ 16 ∧ FitsData (small []) 0 (floor8 16) ∧ FitsData (small []) 0xFFF0 (floor8 16)) := by decide
theorem witness_BlockCommandsCompleteAndFrame :
    FitsData (small []) 0xFFF8 (floor8 15) ∧ FitsData (small []) 0xFFFF (floor8 7) := by decide
theorem witness_BlockCommandsAreByValue :
    (bytesAt 0 letters).wf = true ∧ FitsData (small (bytesAt 0 letters)) 0 (floor8 17) ∧
      FitsData (small (bytesAt 0 letters)) 0xFFF0 (floor8 17) ∧ ByValueWindows 0 0xFFF0 (floor8 17) ∧
      ByValueWindows 0 16 (floor8 17) ∧ ByValueWindows 0 0 (floor8 17) ∧ ByValueWindows 4 0 (floor8 17) := by
  decide
theorem witness_CeDecUndoesCeEnc :
    (bytesAt 0 letters).wf = true ∧ FitsData (small (bytesAt 0 letters)) 0 (floor8 9) ∧
      FitsData (small (bytesAt 0 letters)) 0x100 (floor8 9) ∧ ByValueWindows 0 0x100 (floor8 9) ∧
      ByValueWindows 0x100 0x100 (floor8 9) := by decide
theorem witness_DispatchChoosesTheRound : 8 ≤ 8 ∧ (1 ≤ 1 ∧ 1 ≤ 7) ∧ (1 ≤ 7 ∧ 7 ≤ 7) := by decide
theorem witness_TailIsAKeystreamInvolution :
    (1 ≤ [(0xA1 : Byte)].length ∧ [(0xA1 : Byte)].length ≤ 7) ∧
      (1 ≤ (List.replicate 7 (0 : Byte)).length ∧ (List.replicate 7 (0 : Byte)).length ≤ 7) := by decide
theorem witness_FsEncGoesRoundByRound :
    PastData (small []) 0xFFFF 2 ∧ (1 ≤ 7 ∧ 7 ≤ 7 ∧ FitsData (small []) 0xFFF9 7 ∧ FitsData (small []) 0 7) ∧
      (8 ≤ 8 ∧ FitsData (small []) 0 8 ∧ FitsData (small []) 0xFFF8 8) := by decide
theorem witness_FsDecGoesRoundByRound :
    PastData (small []) 1 0x10000 ∧ (1 ≤ 1 ∧ 1 ≤ 7 ∧ FitsData (small []) 0xFFFF 1 ∧ FitsData (small []) 0 1) ∧
      (8 ≤ 15 ∧ FitsData (small []) 0xFFF1 15 ∧ FitsData (small []) 0xFFF1 15) := by decide
theorem witness_StreamCommandsCompleteAndFrame :
    (FitsData (small []) 0xFFFF 0 ∧ FitsData (small []) 0x10000 0) ∧
      (FitsData (small []) 0 0x10000 ∧ FitsData (small []) 0 0x10000) := by decide
theorem witness_StreamCommandsAreByValue :
    (bytesAt 0 letters).wf = true ∧ FitsData (small (bytesAt 0 letters)) 0 10 ∧
      FitsData (small (bytesAt 0 letters)) 10 10 ∧ ByValueWindows 0 10 10 ∧ ByValueWindows 0 0 10 ∧
      ByValueWindows 9 0 10 := by decide
theorem witness_StreamSplitsAtMultiplesOfEight :
    (letters.take 8).length % 8 = 0 ∧ ([] : List Byte).length % 8 = 0 := by decide
theorem witness_StreamOutputDependsOnItsPast :
    (8 * 1 ≤ letters.length ∧ 8 * 1 ≤ (letters.take 9).length ∧
        letters.take (8 * 1) = (letters.take 9).take (8 * 1)) ∧
      (1 ≤ (letters.take 1).length ∧ (letters.take 1).length ≤ 7 ∧ 1 ≤ (letters.take 7).length ∧
        (letters.take 7).length ≤ 7) := by decide
theorem witness_FeedbackDifferenceIsCarriedForward : (letters.take 8).length % 8 = 0 := by decide
theorem witness_FsInitDerivesTheSession :
    PastData (answering []) 0xFFFF 2 ∧
      (FitsData (answering []) 0xFFFF 1 ∧
        digestAnswer (answering []).cfg.digest (windowBytes (answering []).mem 0xFFFF 1) = none) ∧
      (FitsData (answering [(0xFFFF, 0x61)]) 0xFFFF 1 ∧
        digestAnswer (answering [(0xFFFF, 0x61)]).cfg.digest
          (windowBytes (answering [(0xFFFF, 0x61)]).mem 0xFFFF 1) = some (Vector.replicate 32 0)) := by decide
theorem witness_FailedDerivationStopsTheMessage :
    FitsData (answering []) 0x10000 0 ∧
      digestAnswer (answering []).cfg.digest (windowBytes (answering []).mem 0x10000 0) = none := by decide
theorem witness_MessageRoundTrip :
    (answering [(0xFFFF, 0x61)]).mem.wf = true ∧ FitsData (answering [(0xFFFF, 0x61)]) 0xFFFF 1 ∧
      FitsData (answering [(0xFFFF, 0x61)]) 0x100 10 ∧ FitsData (answering [(0xFFFF, 0x61)]) 0xFFF5 10 ∧
      FitsData (answering [(0xFFFF, 0x61)]) 0x100 10 ∧ ByValueWindows 0x100 0xFFF5 10 ∧
      ByValueWindows 0xFFF5 0x100 10 ∧ DisjointWindows 0xFFFF 1 0xFFF5 10 ∧
      digestAnswer (answering [(0xFFFF, 0x61)]).cfg.digest
        (windowBytes (answering [(0xFFFF, 0x61)]).mem 0xFFFF 1) = some (Vector.replicate 32 0) := by decide
/-- The empty password at an address inside the middle window. -/
theorem witness_MessageRoundTrip_empty_password :
    DisjointWindows 0x205 0 0x200 10 ∧ FitsData (answeringEmpty []) 0x205 0 ∧
      ByValueWindows 0x100 0x200 10 ∧ ByValueWindows 0x200 0x200 10 ∧
      FitsData (answeringEmpty []) 0x100 10 ∧ FitsData (answeringEmpty []) 0x200 10 ∧
      (answeringEmpty []).mem.wf = true ∧
      digestAnswer (answeringEmpty []).cfg.digest (windowBytes (answeringEmpty []).mem 0x205 0) =
        some (Vector.replicate 32 0) := by decide

end Sys2Proof.Tests
end

section
/-! PROOFS of the statements of 00_scope.md: the parameters of a machine (R5) and big-endian packing (R8). -/

namespace Sys2Proof.Machine

/-! ## The parameters -/

/-- Each kind of step keeps `cfg`: the reset input, a host write and an illegal command update other fields
only, and a legal command keeps it by its frame. -/
theorem step_cfg {s t : State} (hs : step s = .next t) : t.cfg = s.cfg := by
  rcases step_cases hs with ⟨_, rfl⟩ | ⟨_, _, rfl⟩ | ⟨_, _, _, _, _, rfl⟩ | ⟨_, _, _, _, _, _, frame⟩ |
    ⟨_, _, _, rfl⟩
  · rfl
  · rfl
  · rfl
  · exact frame.cfg
  · rfl

/-! ## Big-endian packing -/

/-- Appending a byte shifts the number before it by one base-256 place. -/
theorem toNat_append_byte {n : Nat} (x : BitVec n) (b : Byte) :
    (x ++ b).toNat = x.toNat * 2 ^ 8 + b.toNat := by
  rw [BitVec.toNat_append, ← Nat.shiftLeft_add_eq_or_of_lt b.isLt, Nat.shiftLeft_eq]

theorem be32_toNat (b0 b1 b2 b3 : Byte) :
    (be32 b0 b1 b2 b3).toNat =
      b0.toNat * 2 ^ 24 + b1.toNat * 2 ^ 16 + b2.toNat * 2 ^ 8 + b3.toNat :=
  calc (be32 b0 b1 b2 b3).toNat
      = ((b0.toNat * 2 ^ 8 + b1.toNat) * 2 ^ 8 + b2.toNat) * 2 ^ 8 + b3.toNat := by
        simp only [be32, toNat_append_byte]
    _ = b0.toNat * 2 ^ 24 + b1.toNat * 2 ^ 16 + b2.toNat * 2 ^ 8 + b3.toNat := by ring

end Sys2Proof.Machine

open Sys2Proof.Machine

/-- Settles O22, from the cases of a step: none of them writes the parameters. -/
theorem parametersNeverChange : Obligations.ParametersNeverChange :=
  fun _ _ => step_cfg

/-- Settles O25, from the base-256 value of appended bytes and the laws of `be32` and the bytes of a word. -/
theorem bigEndianPackingIsInverse : Obligations.BigEndianPackingIsInverse :=
  ⟨be32_toNat, be32_bytes, fun b0 b1 b2 b3 =>
    ⟨byte0_be32 b0 b1 b2 b3, byte1_be32 b0 b1 b2 b3, byte2_be32 b0 b1 b2 b3, byte3_be32 b0 b1 b2 b3⟩⟩
end

section
/-! PROOFS of the statements of 10_state.md: the state after reset (R32), which host inputs may change the
schedule, FB and DATA (R22, R23, R26, R31), and that `WK` is never read (R25). -/

namespace Sys2Proof.Machine

/-! ## The state after reset -/

/-- Every slot of the all-zero schedule is 0, whichever of its five arrays the slot lies in. -/
theorem slotWord_zero (j : Nat) : slotWord Schedule.zero j = 0 := by
  have getD_zero (n i : Nat) : (Vector.replicate n (0 : Word)).toList.getD i 0 = 0 := by
    rw [Vector.toList_replicate, List.getD_eq_getElem?_getD]
    exact List.getElem?_getD_replicate_default_eq _ n i
  unfold slotWord
  split_ifs <;> exact getD_zero _ _

/-! ## Which commands write what -/

/-- R31: the opcode bytes of the commands that build a schedule. -/
theorem op_of_buildsSchedule {i : Instr} (h : buildsSchedule i = true) :
    (encode i).op = 0x01 ∨ (encode i).op = 0x05 := by
  cases i with
  | ceInit key off len => exact .inl rfl
  | fsInit pw b len => exact .inr rfl
  | ceEnc | ceDec | fsEnc | fsDec => cases h

/-- R31: the opcode bytes of the commands that write FB. -/
theorem op_of_writesFeedback {i : Instr} (h : writesFeedback i = true) :
    (encode i).op = 0x05 ∨ (encode i).op = 0x06 ∨ (encode i).op = 0x07 := by
  cases i with
  | fsInit pw b len => exact .inl rfl
  | fsEnc src dst len => exact .inr (.inl rfl)
  | fsDec src dst len => exact .inr (.inr rfl)
  | ceInit | ceEnc | ceDec => cases h

/-- R31, R67: an address in a command's destination window, in terms of the operands `b` and `len` of its
transaction. The commands that build a schedule have an empty window. -/
theorem mem_destWindow {i : Instr} {a : Nat} (hb : (destWindow i).base ≤ a)
    (he : a < (destWindow i).base + (destWindow i).size) :
    (encode i).b ≤ a ∧
      ((((encode i).op = 0x02 ∨ (encode i).op = 0x03) ∧ a < (encode i).b + floor8 (encode i).len) ∨
        (((encode i).op = 0x06 ∨ (encode i).op = 0x07) ∧ a < (encode i).b + (encode i).len)) := by
  cases i with
  | ceInit | fsInit => exact absurd he (Nat.not_lt_zero a)
  | ceEnc src dst len => exact ⟨hb, .inl ⟨.inl rfl, he⟩⟩
  | ceDec src dst len => exact ⟨hb, .inl ⟨.inr rfl, he⟩⟩
  | fsEnc src dst len => exact ⟨hb, .inr ⟨.inl rfl, he⟩⟩
  | fsDec src dst len => exact ⟨hb, .inr ⟨.inr rfl, he⟩⟩

/-! ## Which steps write what -/

theorem nextIsReset_of_port {s : State} {rest : List HostInput} (hp : s.port = .assertReset :: rest) :
    nextIsReset s = true := by simp [nextIsReset, hp]

/-- A command that decodes stands on the port under its own opcode byte. -/
theorem nextOp_of_decode {s : State} {tr : Transaction} {rest : List HostInput} {i : Instr}
    (hp : s.port = .command tr :: rest) (hd : decode s.cfg.aw tr = .ok i) :
    nextOp s = some (encode i).op := by simp [nextOp, hp, (decode_fields hd).1]

/-- A step that is not a reset keeps the schedule and FB, unless it took a command that writes them. -/
theorem step_sched_fb {s t : State} (hs : step s = .next t) :
    nextIsReset s = true ∨ (t.sched = s.sched ∧ t.fb = s.fb) ∨
      ∃ i, nextOp s = some (encode i).op ∧ (buildsSchedule i = false → t.sched = s.sched) ∧
        (writesFeedback i = false → t.fb = s.fb) := by
  rcases step_cases hs with ⟨_, rfl⟩ | ⟨_, hp, _⟩ | ⟨_, _, _, _, _, rfl⟩ |
    ⟨_, _, i, hp, hd, _, frame⟩ | ⟨_, _, _, rfl⟩
  · exact .inr (.inl ⟨rfl, rfl⟩)
  · exact .inl (nextIsReset_of_port hp)
  · exact .inr (.inl ⟨rfl, rfl⟩)
  · exact .inr (.inr ⟨i, nextOp_of_decode hp hd, frame.sched, frame.fb⟩)
  · exact .inr (.inl ⟨rfl, rfl⟩)

/-- A step that changes a byte of DATA took a host write over it, or a command whose destination window
holds it. -/
theorem step_changes_mem {s t : State} {a : Nat} (hs : step s = .next t)
    (hne : t.mem.read a ≠ s.mem.read a) :
    (∃ addr bytes rest, s.port = .writeData addr bytes :: rest ∧ addr ≤ a ∧ a < addr + bytes.length) ∨
      ∃ tr rest i, s.port = .command tr :: rest ∧ decode s.cfg.aw tr = .ok i ∧
        (destWindow i).base ≤ a ∧ a < (destWindow i).base + (destWindow i).size := by
  rcases step_cases hs with ⟨_, rfl⟩ | ⟨_, _, rfl⟩ | ⟨addr, bytes, rest, hp, _, rfl⟩ |
    ⟨tr, rest, i, hp, hd, _, frame⟩ | ⟨_, _, _, rfl⟩
  · exact absurd rfl hne
  · exact absurd rfl hne
  · have inside : ¬(a < addr ∨ addr + bytes.length ≤ a) :=
      fun h => hne (read_memWrite_other bytes s.mem addr a h)
    exact .inl ⟨addr, bytes, rest, hp, by omega, by omega⟩
  · have inside := mt (frame.outside a) hne
    exact .inr ⟨tr, rest, i, hp, hd, by omega, by omega⟩
  · exact absurd rfl hne

/-! ## The weak-key flag is not read

The state with another `WK`, and one equation per operation: the operation on that state answers what it
answers on the state itself, with that `WK`. -/

/-- The same state with `WK` at `b`. -/
def State.setWk (s : State) (b : Bool) : State := { s with wk := b }

section setWk
variable (s : State) (b : Bool)
@[simp] theorem setWk_mem : (s.setWk b).mem = s.mem := rfl
@[simp] theorem setWk_port : (s.setWk b).port = s.port := rfl
@[simp] theorem setWk_cfg : (s.setWk b).cfg = s.cfg := rfl
end setWk

/-- The next state of an outcome changed by `f`; a fault or a refusal stays. -/
def mapNext (f : State → State) : Outcome → Outcome
  | .next t => .next (f t)
  | .fault r => .fault r
  | .refused r => .refused r

theorem rangeChecked_setWk (ws : List Window) {body : State → State} {b : Bool}
    (hbody : ∀ s, body (s.setWk b) = (body s).setWk b) (s : State) :
    rangeChecked ws body (s.setWk b) = mapNext (·.setWk b) (rangeChecked ws body s) := by
  rcases rangeChecked_cases ws body s with ⟨hf, h⟩ | ⟨hf, h⟩ <;> rw [h]
  · rw [rangeChecked_fits (s := s.setWk b) body hf, hbody]
    rfl
  · exact rangeChecked_past (s := s.setWk b) body hf

theorem streamLoop_setWk (dir : Direction) (src dst : Nat) (b : Bool) : ∀ (fuel o r : Nat) (s : State),
    streamLoop dir src dst fuel o r (s.setWk b) = (streamLoop dir src dst fuel o r s).setWk b
  | 0, _, _, _ => rfl
  | fuel + 1, o, r, s => by
    by_cases h8 : 8 ≤ r
    · rw [streamLoop_full dir src dst fuel o h8, streamLoop_full dir src dst fuel o h8]
      exact streamLoop_setWk dir src dst b fuel (o + 8) (r - 8) (fullRoundAt (fullRound dir) src dst o s)
    · by_cases h0 : r = 0
      · subst h0
        rw [streamLoop_done, streamLoop_done]
      · rw [streamLoop_tail dir src dst fuel o (by omega) h0,
          streamLoop_tail dir src dst fuel o (by omega) h0]
        rfl

theorem runStream_setWk (dir : Direction) (src dst len : Nat) (b : Bool) (s : State) :
    runStream dir src dst len (s.setWk b) = (runStream dir src dst len s).setWk b :=
  streamLoop_setWk dir src dst b (len / 8 + 1) 0 len s

theorem startSession_setWk (pw len : Nat) (b : Bool) (s : State) :
    startSession pw len (s.setWk b) = (startSession pw len s).setWk b := by
  simp only [startSession, setFb_cfg, setWk_cfg, setWk_mem]
  cases digestAnswer s.cfg.digest (memRead s.mem pw len) with
  | none => rfl
  | some dg => rfl

/-- No command reads or writes `WK`. -/
theorem exec_setWk (i : Instr) (b : Bool) (s : State) :
    exec i (s.setWk b) = mapNext (·.setWk b) (exec i s) := by
  cases i with
  | ceInit key off len =>
    unfold exec execCeInit
    exact rangeChecked_setWk _ (fun _ => rfl) s
  | ceEnc src dst len =>
    unfold exec execCeEnc
    exact rangeChecked_setWk _ (fun _ => rfl) s
  | ceDec src dst len =>
    unfold exec execCeDec
    exact rangeChecked_setWk _ (fun _ => rfl) s
  | fsInit pw ignored len =>
    unfold exec execFsInit
    exact rangeChecked_setWk _ (startSession_setWk pw len b) s
  | fsEnc src dst len =>
    unfold exec execFsEnc
    exact rangeChecked_setWk _ (fun s => congrArg respondOk (runStream_setWk .enc src dst len b s)) s
  | fsDec src dst len =>
    unfold exec execFsDec
    exact rangeChecked_setWk _ (fun s => congrArg respondOk (runStream_setWk .dec src dst len b s)) s

theorem hostWrite_setWk (addr : Nat) (bytes : List Byte) (b : Bool) (s : State) :
    hostWrite addr bytes (s.setWk b) = mapNext (·.setWk b) (hostWrite addr bytes s) := by
  unfold hostWrite
  rw [apply_ite (mapNext (·.setWk b))]
  rfl

/-- No step reads `WK`, and only the reset input writes it, with 0. -/
theorem step_setWk (s : State) (b : Bool) :
    step (s.setWk b) = mapNext (·.setWk (if nextIsReset s then false else b)) (step s) := by
  cases hp : s.port with
  | nil => simp only [step, nextIsReset, setWk_port, hp]; rfl
  | cons input rest =>
    cases input with
    | assertReset => simp only [step, nextIsReset, setWk_port, hp]; rfl
    | writeData addr bytes =>
      simp only [step, nextIsReset, setWk_port, hp]
      exact hostWrite_setWk addr bytes b (s.setPort rest)
    | command tr =>
      simp only [step, nextIsReset, setWk_port, setWk_cfg, hp]
      cases decode s.cfg.aw tr with
      | ok i => exact exec_setWk i b (s.setPort rest)
      | error e => rfl

end Sys2Proof.Machine

open Sys2Proof Sys2Proof.Machine

/-- Settles O18, from the cases of a step and the opcode bytes of the commands that build a schedule. -/
theorem onlyKeyingChangesTheSchedule : Obligations.OnlyKeyingChangesTheSchedule := by
  intro s t hs hne
  rcases step_sched_fb hs with hreset | ⟨hsched, _⟩ | ⟨i, hop, hsched, _⟩
  · exact .inl hreset
  · exact absurd hsched hne
  · rw [hop]
    exact .inr ((op_of_buildsSchedule (eq_true_of_ne_false (mt hsched hne))).imp
      (congrArg some) (congrArg some))

/-- Settles O19, from the cases of a step and the opcode bytes of the commands that write FB. -/
theorem onlySessionCommandsChangeFeedback : Obligations.OnlySessionCommandsChangeFeedback := by
  intro s t hs hne
  rcases step_sched_fb hs with hreset | ⟨_, hfb⟩ | ⟨i, hop, _, hfb⟩
  · exact .inl hreset
  · exact absurd hfb hne
  · rw [hop]
    exact .inr ((op_of_writesFeedback (eq_true_of_ne_false (mt hfb hne))).imp
      (congrArg some) (Or.imp (congrArg some) (congrArg some)))

/-- Settles O20, from the cases of a step; the destination window of a decoded command is the one the
operands on the wires name. -/
theorem dataChangesOnlyInDestinationWindows : Obligations.DataChangesOnlyInDestinationWindows := by
  intro s t a hs hne
  refine (step_changes_mem hs hne).imp_right ?_
  rintro ⟨tr, rest, i, hp, hd, hb, he⟩
  obtain ⟨hop, _, hdst, hlen, _⟩ := decode_fields hd
  have hw := mem_destWindow hb he
  rw [← hop, hdst, hlen] at hw
  exact ⟨tr, rest, hp, hw⟩

/-- Settles O21, from the one equation of a step on the state with another `WK`. -/
theorem weakKeyFlagIsUnobservable : Obligations.WeakKeyFlagIsUnobservable := fun s b =>
  ⟨fun _ hs => (step_setWk s b).trans (congrArg _ hs), fun _ hs => (step_setWk s b).trans (congrArg _ hs)⟩

/-- Settles O14: each field of the reset state is the one R32 gives; the slots are those of the zero
schedule. -/
theorem machineAfterReset : Obligations.MachineAfterReset :=
  ⟨fun j _ => slotWord_zero j, rfl, rfl, rfl, rfl, rfl⟩

/-- Settles O16: DATA lists nothing at reset, `WK` is its reset value, and `AW` is 32. -/
theorem invariantAtReset : Obligations.InvariantAtReset :=
  ⟨rfl, rfl, rfl, by decide⟩
end

section
/-! PROOFS of the statements of 20_memory.md: the invariant of DATA over steps (R61, R64), host writes (R61, R208),
reading back what was written (R62, R63), the canonical form, and the by-value reading of the block and stream
commands (R68, R69). -/

namespace Sys2Proof.Machine

/-! ## The invariant -/

/-- A step writes DATA by `MemWrite` inside a window that fits, if at all, and `WK` by reset, if at all. -/
theorem step_inv {s t : State} (hinv : Inv s) (hs : step s = .next t) : Inv t := by
  obtain ⟨hwf, hwithin, hwk, haw⟩ := hinv
  rcases step_cases hs with ⟨_, rfl⟩ | ⟨_, _, rfl⟩ | ⟨addr, bytes, _, _, hfits, rfl⟩ |
    ⟨_, _, _, _, _, _, frame⟩ | ⟨_, _, _, rfl⟩
  · exact ⟨hwf, hwithin, hwk, haw⟩
  · exact ⟨hwf, hwithin, rfl, haw⟩
  · exact ⟨wf_memWrite bytes addr hwf, within_memWrite bytes addr hfits hwithin, hwk, haw⟩
  · have hcfg : t.cfg = s.cfg := frame.cfg
    exact ⟨frame.wf hwf, hcfg ▸ frame.within hwithin, frame.wk.trans hwk, hcfg ▸ haw⟩
  · exact ⟨hwf, hwithin, hwk, haw⟩

/-! ## Reading after writing -/

/-- `MemRead` over the window just written gives the bytes written (R62, R63). -/
theorem memRead_memWrite_same {m : Memory} (hm : m.wf = true) (a : Nat) (v : List Byte) :
    memRead (memWrite m a v) a v.length = v := by
  apply List.ext_getElem (memRead_length ..)
  intro i _ hi
  rw [memRead_getElem, read_memWrite_in v a i hi hm]

/-- `MemRead` over a window that shares no address with the one written gives what it gave before (R63). -/
theorem memRead_memWrite_disjoint (m : Memory) {a b n : Nat} {v : List Byte}
    (h : b + n ≤ a ∨ a + v.length ≤ b) : memRead (memWrite m a v) b n = memRead m b n :=
  memRead_congr b n fun x _ _ => read_memWrite_other v m a x (by omega)

theorem sameOutside_memWrite (m : Memory) (a : Nat) (v : List Byte) :
    SameOutside m (memWrite m a v) a v.length := read_memWrite_other v m a

/-- `MemRead` of the 8 bytes where a block was written gives its bytes. -/
theorem memRead_memWrite_block {m : Memory} (hm : m.wf = true) (a : Nat) (b : Block) :
    memRead (memWrite m a b.toList) a 8 = b.toList := by
  simpa only [toList_length] using memRead_memWrite_same hm a b.toList

/-- A read of 8 bytes or more is its first block and then the rest. -/
theorem memRead_full (m : Memory) (a : Nat) {n : Nat} (h : 8 ≤ n) :
    memRead m a n = memRead m a 8 ++ memRead m (a + 8) (n - 8) := by
  rw [← memRead_add, Nat.add_sub_cancel' h]

theorem drop_memRead_full (m : Memory) (a : Nat) {n : Nat} (h : 8 ≤ n) :
    (memRead m a n).drop 8 = memRead m (a + 8) (n - 8) := by
  rw [memRead_full m a h, List.drop_left' (memRead_length ..)]

theorem blockOf_memRead_full (m : Memory) (a : Nat) {n : Nat} (h : 8 ≤ n) :
    blockOf (memRead m a n) = blockOf (memRead m a 8) := by
  rw [← blockOf_take _ 8 le_rfl, memRead_full m a h, List.take_left' (memRead_length ..)]

/-! ## Host writes -/

theorem step_writeData {s : State} {addr : Nat} {bytes : List Byte} {rest : List HostInput}
    (hp : s.port = .writeData addr bytes :: rest) : step s = hostWrite addr bytes (s.setPort rest) := by
  simp only [step, hp]

theorem hostWrite_fits {s : State} {addr : Nat} {bytes : List Byte} (h : FitsData s addr bytes.length) :
    hostWrite addr bytes s = .next (s.setMem (memWrite s.mem addr bytes)) :=
  if_pos ((Bool.or_eq_true _ _).mpr (h.imp decide_eq_true decide_eq_true))

theorem hostWrite_past {s : State} {addr : Nat} {bytes : List Byte} (h : PastData s addr bytes.length) :
    hostWrite addr bytes s = .fault .hostWriteOutsideData := by
  obtain ⟨hpos, hpast⟩ := h
  simp [hostWrite, List.ne_nil_of_length_pos hpos, Nat.not_le.mpr hpast]

/-! ## The canonical form -/

theorem wfFrom_cons {lo b : Nat} {w : Byte} {m : Memory} :
    Memory.wfFrom lo ((b, w) :: m) = true ↔
      lo ≤ b ∧ w ≠ Memory.unlisted ∧ Memory.wfFrom (b + 1) m = true := by
  simp [Memory.wfFrom, and_assoc]

theorem read_cons_same (b : Nat) (w : Byte) (m : Memory) : Memory.read ((b, w) :: m) b = w := by
  simp [Memory.read]

theorem read_cons_other {a b : Nat} (w : Byte) (m : Memory) (h : a ≠ b) :
    Memory.read ((b, w) :: m) a = Memory.read m a := by
  simp [Memory.read, h]

/-- In the canonical form the first entry reads as no unlisted byte does. -/
theorem read_head_ne {lo b : Nat} {w : Byte} {m : Memory}
    (hm : Memory.wfFrom lo ((b, w) :: m) = true) : Memory.read ((b, w) :: m) b ≠ Memory.unlisted := by
  obtain ⟨_, hw, _⟩ := wfFrom_cons.mp hm
  rwa [read_cons_same]

/-- In the canonical form an address that does not read as an unlisted byte is no lower than the first entry. -/
theorem head_le_of_read_ne {lo a b : Nat} {w : Byte} {m : Memory}
    (hm : Memory.wfFrom lo ((b, w) :: m) = true) (h : Memory.read ((b, w) :: m) a ≠ Memory.unlisted) :
    b ≤ a := by
  obtain ⟨_, hw, hrest⟩ := wfFrom_cons.mp hm
  exact Nat.not_lt.mp fun hlt => h (read_below (wfFrom_cons.mpr ⟨le_rfl, hw, hrest⟩) hlt)

/-- Canonical memories are determined by what they read as: their first entries agree, and then the rests,
which read as unlisted up to there. -/
theorem wfFrom_ext : ∀ {m m' : Memory} {lo lo' : Nat}, Memory.wfFrom lo m = true →
    Memory.wfFrom lo' m' = true → (∀ a, m.read a = m'.read a) → m = m'
  | [], [], _, _, _, _, _ => rfl
  | [], (b, _) :: _, _, _, _, hm', h => absurd (h b).symm (read_head_ne hm')
  | (b, _) :: _, [], _, _, hm, _, h => absurd (h b) (read_head_ne hm)
  | (b, w) :: m, (b', w') :: m', _, _, hm, hm', h => by
    obtain rfl : b = b' := Nat.le_antisymm
      (head_le_of_read_ne hm (h b' ▸ read_head_ne hm')) (head_le_of_read_ne hm' (h b ▸ read_head_ne hm))
    obtain rfl : w = w' := by simpa only [read_cons_same] using h b
    obtain ⟨_, _, hrest⟩ := wfFrom_cons.mp hm
    obtain ⟨_, _, hrest'⟩ := wfFrom_cons.mp hm'
    have hreads (a : Nat) : Memory.read m a = Memory.read m' a := by
      by_cases ha : a = b
      · rw [ha, read_below hrest (Nat.lt_succ_self b), read_below hrest' (Nat.lt_succ_self b)]
      · simpa only [read_cons_other _ _ ha] using h a
    rw [wfFrom_ext hrest hrest' hreads]

/-! ## The by-value reading of CE_ENC and CE_DEC -/

theorem blockAt_zero (f : Block → Block) (src dst : Nat) (m : Memory) :
    blockAt f src dst 0 m = memWrite m dst (f (blockOf (memRead m src 8))).toList := rfl

/-- R69 (a), (b): the block loop's destination block `n` is the image of source block `n` as it was before.
The first block is not written again by the loop on the rest, and writing it leaves the rest of the source
as it was. -/
theorem blockLoop_byValue (f : Block → Block) : ∀ {n src dst len : Nat} {m : Memory}, m.wf = true →
    ByValueWindows src dst (floor8 len) → n < len / 8 →
    memRead (blockLoop f src dst len m) (dst + 8 * n) 8 =
      (f (blockOf (memRead m (src + 8 * n) 8))).toList
  | 0, src, dst, len, m, hm, _, hn => by
    have hkept : memRead (blockLoop f src dst len m) dst 8 = memRead (blockAt f src dst 0 m) dst 8 := by
      rw [blockLoop_peel f src dst (by omega)]
      exact memRead_congr dst 8 fun x _ _ => blockLoop_read_other _ _ _ _ _ x (by omega)
    exact hkept.trans (memRead_memWrite_block hm dst _)
  | n + 1, src, dst, len, m, hm, hv, hn => by
    rw [floor8_eq] at hv
    have hrest : ByValueWindows (src + 8) (dst + 8) (floor8 (len - 8)) := by
      rw [floor8_eq]
      omega
    have hdst : dst + 8 * (n + 1) = dst + 8 + 8 * n := by omega
    have hsrc : src + 8 * (n + 1) = src + 8 + 8 * n := by omega
    rw [hdst, hsrc, blockLoop_peel f src dst (by omega), blockAt_zero,
      blockLoop_byValue f (wf_memWrite _ _ hm) hrest (by omega),
      memRead_memWrite_disjoint m (by rw [toList_length]; omega)]

/-! ## The by-value reading of FS_ENC and FS_DEC -/

/-- What a tail round leaves in its destination and in FB. -/
theorem tailRoundAt_byValue (src dst : Nat) {n : Nat} {s : State} (hm : s.mem.wf = true) (h : n ≤ 8) :
    (memRead (tailRoundAt src dst 0 n s).mem dst n, (tailRoundAt src dst 0 n s).fb) =
      fsTail s.sched s.fb (memRead s.mem src n) := by
  have hlen : (fsTail s.sched s.fb (memRead s.mem src n)).1.length = n :=
    (fsTail_length _ _ (by rwa [memRead_length])).trans (memRead_length ..)
  refine Prod.ext ?_ rfl
  have hsame := memRead_memWrite_same hm dst (fsTail s.sched s.fb (memRead s.mem src n)).1
  rwa [hlen] at hsame

/-- The output block of the first round stays where it was written: the rounds after it write further on. -/
theorem runStream_read_first (dir : Direction) (src dst : Nat) {len : Nat} {s : State}
    (hm : s.mem.wf = true) (h8 : 8 ≤ len) :
    memRead (runStream dir src dst len s).mem dst 8 =
      (fullRound dir s.sched s.fb (blockOf (memRead s.mem src 8))).1.toList := by
  have frame := runStream_frame dir (src + 8) (dst + 8) (len - 8)
    (fullRoundAt (fullRound dir) src dst 0 s)
  rw [runStream_full dir src dst h8, memRead_congr dst 8 fun x _ _ => frame.outside x (by omega)]
  exact memRead_memWrite_block hm dst _

/-- The first round leaves the rest of the source as it was, the destination not running ahead of it. -/
theorem fullRoundAt_read_source (round : Schedule → Block → Block → Block × Block) {src dst len : Nat}
    (s : State) (h8 : 8 ≤ len) (hv : ByValueWindows src dst len) :
    memRead (fullRoundAt round src dst 0 s).mem (src + 8) (len - 8) =
      memRead s.mem (src + 8) (len - 8) :=
  memRead_memWrite_disjoint s.mem (by rw [toList_length]; omega)

/-- R69 (a), (b): a run of stream rounds puts in the destination the stream of the source's bytes as they were
before, and leaves the stream's final FB. -/
theorem runStream_byValue (dir : Direction) {src dst len : Nat} {s : State} (hm : s.mem.wf = true)
    (hv : ByValueWindows src dst len) :
    (memRead (runStream dir src dst len s).mem dst len, (runStream dir src dst len s).fb) =
      streamBytes dir s.sched s.fb (memRead s.mem src len) := by
  induction len using Nat.strong_induction_on generalizing src dst s with
  | _ len ih =>
    by_cases h8 : 8 ≤ len
    · have hrest : (memRead (runStream dir src dst len s).mem (dst + 8) (len - 8),
          (runStream dir src dst len s).fb) =
            streamBytes dir s.sched (fullRound dir s.sched s.fb (blockOf (memRead s.mem src 8))).2
              (memRead s.mem (src + 8) (len - 8)) := by
        rw [runStream_full dir src dst h8, ← fullRoundAt_read_source (fullRound dir) s h8 hv]
        exact ih (len - 8) (by omega) (s := fullRoundAt (fullRound dir) src dst 0 s)
          (wf_memWrite _ _ hm) (by omega)
      rw [streamBytes_full _ _ _ (by rwa [memRead_length]), drop_memRead_full _ _ h8,
        blockOf_memRead_full _ _ h8, ← hrest, memRead_full _ dst h8, runStream_read_first _ _ _ hm h8]
    · by_cases h0 : len = 0
      · subst h0
        rw [runStream_done]
        exact (streamBytes_nil ..).symm
      · have hne : memRead s.mem src len ≠ [] := by
          rwa [← List.length_pos_iff, memRead_length, Nat.pos_iff_ne_zero]
        rw [runStream_tail dir src dst (by omega) h0,
          streamBytes_tail _ _ _ (by rw [memRead_length]; omega) hne]
        exact tailRoundAt_byValue src dst hm (by omega)

end Sys2Proof.Machine

open Sys2Proof.Machine

/-- Settles O17, from the cases of a step. -/
theorem stepKeepsTheInvariant : Obligations.StepKeepsTheInvariant :=
  fun _ _ => step_inv

/-- Settles O15: a step takes the host's write, which is a `MemWrite` where it fits and the fault where not. -/
theorem hostWritesAreOrdinaryMemory : Obligations.HostWritesAreOrdinaryMemory := by
  intro s addr bytes rest hp
  rw [step_writeData hp]
  constructor
  · intro hfits hm
    refine ⟨_, hostWrite_fits hfits, rfl, ?_, sameOutside_memWrite s.mem addr bytes⟩
    rw [← memRead_eq_windowBytes]
    exact memRead_memWrite_same hm addr bytes
  · exact fun hpast => hostWrite_past hpast

/-- Settles O23, from the read-after-write laws of DATA. -/
theorem dataReadsBackWhatWasWritten : Obligations.DataReadsBackWhatWasWritten := fun m a v hm =>
  ⟨memRead_memWrite_same hm a v, sameOutside_memWrite m a v, memRead_eq_windowBytes m⟩

/-- Settles O24: the canonical form from address 0 on is determined by what it reads as. -/
theorem canonicalDataIsUnique : Obligations.CanonicalDataIsUnique :=
  fun _ _ => wfFrom_ext

/-- Settles O38: both commands are the block loop, whose by-value reading holds for any block function. -/
theorem blockCommandsAreByValue : Obligations.BlockCommandsAreByValue := by
  intro s src dst len hm hsrc hdst hv
  simp only [← memRead_eq_windowBytes]
  exact ⟨⟨_, exec_ceEnc_fits s src dst len hsrc hdst, fun n hn => blockLoop_byValue _ hm hv hn⟩,
    ⟨_, exec_ceDec_fits s src dst len hsrc hdst, fun n hn => blockLoop_byValue _ hm hv hn⟩⟩

/-- Settles O46: both commands run the stream rounds of their direction. -/
theorem streamCommandsAreByValue : Obligations.StreamCommandsAreByValue := by
  intro s src dst len hm hsrc hdst hv
  simp only [← memRead_eq_windowBytes]
  exact ⟨⟨_, exec_fsEnc_fits s src dst len hsrc hdst, runStream_byValue .enc hm hv⟩,
    ⟨_, exec_fsDec_fits s src dst len hsrc hdst, runStream_byValue .dec hm hv⟩⟩
end

section
/-! PROOFS of the statements of 30_encoding.md: the decoder and the encoder (R90 to R96), a step and the command it
decodes (R90), and the messages of R99, with the round trip of a stream (41_feedback_session.md R166 (a)) and of a
block (40_cipher_engine.md R132) they rest on. -/

namespace Sys2Proof

/-! ## Decoding and encoding -/

/-- The command with each operand as `aw` wires carry it. -/
def Instr.carried (aw : Nat) : Instr → Instr
  | .ceInit key off len => .ceInit (onWires aw key) (onWires aw off) (onWires aw len)
  | .ceEnc src dst len => .ceEnc (onWires aw src) (onWires aw dst) (onWires aw len)
  | .ceDec src dst len => .ceDec (onWires aw src) (onWires aw dst) (onWires aw len)
  | .fsInit pw ignored len => .fsInit (onWires aw pw) (onWires aw ignored) (onWires aw len)
  | .fsEnc src dst len => .fsEnc (onWires aw src) (onWires aw dst) (onWires aw len)
  | .fsDec src dst len => .fsDec (onWires aw src) (onWires aw dst) (onWires aw len)

@[simp] theorem Instr.mnemonic_carried (aw : Nat) (i : Instr) : (i.carried aw).mnemonic = i.mnemonic := by
  cases i <;> rfl

/-- The laws of a command as syntax, one per constructor, for every command. -/
theorem opcodeOfRow (i : Instr) : Laws.OpcodeOfRow.Statement i := by
  cases i with
  | ceInit key off len => exact Laws.OpcodeOfRow.ceInit key off len
  | ceEnc src dst len => exact Laws.OpcodeOfRow.ceEnc src dst len
  | ceDec src dst len => exact Laws.OpcodeOfRow.ceDec src dst len
  | fsInit pw ignored len => exact Laws.OpcodeOfRow.fsInit pw ignored len
  | fsEnc src dst len => exact Laws.OpcodeOfRow.fsEnc src dst len
  | fsDec src dst len => exact Laws.OpcodeOfRow.fsDec src dst len

theorem Transaction.fits_iff (aw : Nat) (t : Transaction) :
    t.fits aw = true ↔ fitsWires aw t.a = true ∧ fitsWires aw t.b = true ∧ fitsWires aw t.len = true := by
  simp only [Transaction.fits, Bool.and_eq_true, and_assoc]

theorem fits_encode {aw : Nat} {i : Instr} (h : WellFormed aw i = true) : (encode i).fits aw = true :=
  ((opcodeOfRow i).2 aw).trans h

/-- The wires carry a well-formed command whole. -/
theorem Instr.carried_of_wellFormed {aw : Nat} {i : Instr} (h : WellFormed aw i = true) :
    i.carried aw = i := by
  obtain ⟨ha, hb, hlen⟩ := (Transaction.fits_iff ..).mp (fits_encode h)
  cases i <;>
    exact congr (congr (congrArg _ (onWires_of_fits ha)) (onWires_of_fits hb)) (onWires_of_fits hlen)

@[simp] theorem opReserved_opByte : ∀ unit fn, opReserved (opByte unit fn) = 0 := by decide

@[simp] theorem opUnit_opByte : ∀ unit fn, opUnit (opByte unit fn) = unit := by decide

@[simp] theorem opFn_opByte : ∀ unit fn, opFn (opByte unit fn) = fn := by decide

/-- The decoder reads each command's two fields back and gives the command as the wires carry it (R92, R93). -/
theorem decode_encode (aw : Nat) (i : Instr) : decode aw (encode i) = .ok (i.carried aw) := by
  cases i <;> simp [decode, encode, Instr.carried]

theorem decode_encode_of_wellFormed {aw : Nat} {i : Instr} (h : WellFormed aw i = true) :
    decode aw (encode i) = .ok i := by
  rw [decode_encode, Instr.carried_of_wellFormed h]

/-! ## The bits of a command as one number (R91) -/

/-- Above `n` bits that hold `lo`, the number `hi` is what a shift by `n` leaves. -/
theorem packed_div {n lo : Nat} (hi : Nat) (h : lo < 2 ^ n) : (lo + 2 ^ n * hi) / 2 ^ n = hi := by
  rw [Nat.add_mul_div_left _ _ (Nat.two_pow_pos n), Nat.div_eq_of_lt h, Nat.zero_add]

theorem packed_mod {n lo : Nat} (hi : Nat) (h : lo < 2 ^ n) : (lo + 2 ^ n * hi) % 2 ^ n = lo := by
  rw [Nat.add_mul_mod_self_left, Nat.mod_eq_of_lt h]

theorem packed_lt {n m lo hi : Nat} (hlo : lo < 2 ^ n) (hhi : hi < 2 ^ m) :
    lo + 2 ^ n * hi < 2 ^ (n + m) :=
  calc lo + 2 ^ n * hi < 2 ^ n * (hi + 1) := by rw [Nat.mul_succ, Nat.add_comm]; exact Nat.add_lt_add_left hlo _
    _ ≤ 2 ^ n * 2 ^ m := Nat.mul_le_mul_left _ hhi
    _ = 2 ^ (n + m) := (Nat.pow_add ..).symm

theorem onWires_lt (aw n : Nat) : onWires aw n < 2 ^ aw := Nat.mod_lt _ (Nat.two_pow_pos aw)

theorem toBits_lt (aw : Nat) (t : Transaction) : t.toBits aw < 2 ^ commandBits aw := by
  have hbits : commandBits aw = 8 + (aw + (aw + aw)) := by rw [commandBits]; omega
  rw [hbits]
  exact packed_lt t.op.isLt (packed_lt (onWires_lt ..) (packed_lt (onWires_lt ..) (onWires_lt ..)))

/-- The numbering of the bits loses nothing of a transaction that fits: each field is what the shift to its
place leaves, cut to its width. -/
theorem ofBits_toBits {aw : Nat} {t : Transaction} (h : t.fits aw = true) :
    Transaction.ofBits aw (t.toBits aw) = t := by
  obtain ⟨ha, hb, hlen⟩ := (Transaction.fits_iff aw t).mp h
  have hop : BitVec.ofNat 8 (t.toBits aw) = t.op :=
    BitVec.eq_of_toNat_eq (packed_mod _ t.op.isLt)
  have h8 : t.toBits aw / 2 ^ 8 = t.a + 2 ^ aw * (t.b + 2 ^ aw * t.len) := by
    rw [Transaction.toBits, packed_div _ t.op.isLt, onWires_of_fits ha, onWires_of_fits hb,
      onWires_of_fits hlen]
  have h8a : t.toBits aw / 2 ^ (8 + aw) = t.b + 2 ^ aw * t.len := by
    rw [Nat.pow_add, ← Nat.div_div_eq_div_mul, h8, packed_div _ (of_decide_eq_true ha)]
  have h8ab : t.toBits aw / 2 ^ (8 + 2 * aw) = t.len := by
    rw [show 8 + 2 * aw = 8 + aw + aw by omega, Nat.pow_add, ← Nat.div_div_eq_div_mul, h8a,
      packed_div _ (of_decide_eq_true hb)]
  simp only [Transaction.ofBits, hop, h8, h8a, h8ab, onWires_of_fits hlen]
  simp only [onWires, packed_mod _ (of_decide_eq_true ha), packed_mod _ (of_decide_eq_true hb)]

/-! ## The opcode map (R93) -/

/-- Every mask of the map is 0xFF: a row selects its pattern only. -/
theorem selects_iff {r : OpcodeRow} (hr : r ∈ opcodeRows) (op : BitVec 8) :
    r.selects op = true ↔ op = r.pattern := by
  have hmask : ∀ r ∈ opcodeRows, r.mask = BitVec.allOnes 8 := by decide
  rw [OpcodeRow.selects, hmask r hr, BitVec.and_allOnes, beq_iff_eq]

/-- The command a command's row names has that row's opcode byte. -/
theorem exists_row_of_command (i : Instr) : ∃ r ∈ opcodeRows, r.pattern = (encode i).op := by
  obtain ⟨⟨r, hr, _, hpat⟩, _⟩ := opcodeOfRow i
  exact ⟨r, hr, hpat⟩

/-- A transaction under a row's opcode byte is the encoding of that row's command. -/
theorem exists_command_of_row {r : OpcodeRow} (hr : r ∈ opcodeRows) {t : Transaction}
    (hop : t.op = r.pattern) : ∃ i, encode i = t ∧ i.mnemonic = r.mnemonic := by
  obtain ⟨op, a, b, len⟩ := t
  obtain rfl : op = r.pattern := hop
  simp only [opcodeRows, List.mem_cons, List.not_mem_nil, or_false] at hr
  rcases hr with rfl | rfl | rfl | rfl | rfl | rfl
  · exact ⟨.ceInit a b len, rfl, rfl⟩
  · exact ⟨.ceEnc a b len, rfl, rfl⟩
  · exact ⟨.ceDec a b len, rfl, rfl⟩
  · exact ⟨.fsInit a b len, rfl, rfl⟩
  · exact ⟨.fsEnc a b len, rfl, rfl⟩
  · exact ⟨.fsDec a b len, rfl, rfl⟩

end Sys2Proof

namespace Sys2Proof.Machine

/-! ## A step and the input it takes (R90) -/

theorem step_command {s : State} {t : Transaction} {rest : List HostInput} {i : Instr}
    (hp : s.port = .command t :: rest) (hd : decode s.cfg.aw t = .ok i) :
    step s = exec i (s.setPort rest) := by
  simp only [step, hp, hd]

theorem step_idle {s : State} (hp : s.port = []) : step s = .next s := by
  simp only [step, hp, stayIdle]

/-! ## The round trip of a block and of a stream -/

/-- The double rounds undone one by one, the last first, on the two words exchanged. -/
theorem doubleRounds_undo (k : Schedule) (u v : Fin 18 → Word) (l : List (Fin 18)) (hl : Word × Word) :
    l.reverse.foldl (fun hl i => doubleRound k (v i) (u i) hl)
      (l.foldl (fun hl i => doubleRound k (u i) (v i) hl) hl).swap = hl.swap := by
  induction l generalizing hl with
  | nil => rfl
  | cons i l ih => rw [List.foldl_cons, List.reverse_cons, List.foldl_append, ih, List.foldl_cons,
      List.foldl_nil, doubleRound_undo]

/-- DECBLK goes through the pairs of ENCBLK from the last to the first, each exchanged (R121, R122). -/
theorem decIndices_eq : decIndices = (encIndices.map (· + 1)).reverse := by decide

/-- R132, one of the two orders. -/
theorem decBlk_encBlk (k : Schedule) (b : Block) : decBlk k (encBlk k b) = b := by
  have undo := doubleRounds_undo k (fun i => k.p.get i) (fun i => k.p.get (i + 1)) encIndices
    (firstWord b ^^^ k.p[0], secondWord b)
  simp only [decBlk, encBlk, firstWord_blockOfWords, secondWord_blockOfWords, BitVec.xor_assoc,
    BitVec.xor_self, BitVec.xor_zero, decIndices_eq, ← List.map_reverse, List.foldl_map,
    add_sub_cancel_right]
  simp only [Prod.swap] at undo
  rw [undo]
  simp only [BitVec.xor_assoc, BitVec.xor_self, BitVec.xor_zero, blockOfWords_words]

/-- R162: the full decrypt round undoes the full encrypt round and leaves the same FB. -/
theorem fsFullDec_fsFullEnc (k : Schedule) (fb x : Block) :
    fsFullDec k fb (fsFullEnc k fb x).1 = (x, (fsFullEnc k fb x).2) := by
  simp only [fsFullDec, fsFullEnc, decBlk_encBlk, xorBlock_cancel]

/-- R163: the tail round undoes itself and leaves the same FB. -/
theorem fsTail_fsTail (k : Schedule) (fb : Block) {x : List Byte} (h : x.length ≤ 8) :
    fsTail k fb (fsTail k fb x).1 = (x, (fsTail k fb x).2) :=
  Prod.ext (xorBytes_cancel _ _ (by rwa [toList_length])) rfl

theorem toList_blockOf_append_drop {m : List Byte} (h : 8 ≤ m.length) :
    (blockOf m).toList ++ m.drop 8 = m := by
  rw [← blockOf_take m 8 le_rfl, toList_blockOf (List.length_take_of_le h), List.take_append_drop]

/-- R166 (a), chunk by chunk. -/
theorem streamBytes_roundTrip (k : Schedule) (fb : Block) (m : List Byte) :
    streamBytes .dec k fb (streamBytes .enc k fb m).1 = (m, (streamBytes .enc k fb m).2) := by
  induction m using message_induction generalizing fb with
  | done => rfl
  | tail m hne hlt =>
    have hlen := fsTail_length k fb hlt.le
    have hne' : (fsTail k fb m).1 ≠ [] := fun h => hne (by simpa [h] using hlen.symm)
    rw [streamBytes_tail .enc k fb hlt hne, streamBytes_tail .dec k fb (by omega) hne',
      fsTail_fsTail k fb hlt.le]
  | full m h8 ih =>
    rw [streamBytes_full .enc k fb h8, streamBytes_full .dec k fb (by simp), blockOf_toList_append,
      List.drop_left' (toList_length _)]
    simp only [fullRound, fsFullDec_fsFullEnc, ih, toList_blockOf_append_drop h8]

/-! ## FS_INIT (R167) -/

/-- What a successful key derivation leaves: the schedule of the digest, FB encrypted under it, OK (R167, R168). -/
def State.keyed (s : State) (d : Digest) : State :=
  { s with
    sched := keySchedule d.toList
    fb := encBlk (keySchedule d.toList) onesBlock
    resp := some .ok }

theorem exec_fsInit_fits {s : State} {pw len : Nat} (b : Nat) (h : FitsData s pw len) :
    exec (.fsInit pw b len) s = .next (startSession pw len s) :=
  rangeChecked_fits _ ((passwordWindows_fit ..).2 h)

theorem startSession_fail {s : State} {pw len : Nat}
    (h : digestAnswer s.cfg.digest (windowBytes s.mem pw len) = none) :
    startSession pw len s = { s with fb := onesBlock, resp := some .errDigest } := by
  simp only [startSession, memRead_eq_windowBytes, setFb_cfg, h]
  rfl

/-- R168: the saved FB is back after step 7, so steps 5 to 7 leave no trace. -/
theorem startSession_keyed {s : State} {pw len : Nat} {d : Digest}
    (h : digestAnswer s.cfg.digest (windowBytes s.mem pw len) = some d) :
    startSession pw len s = s.keyed d := by
  simp only [startSession, memRead_eq_windowBytes, setFb_cfg, h]
  rfl

/-! ## Messages (R99) -/

theorem issueAll_ok {i : Instr} {s t : State} (is : List Instr) (h : exec i s = .next t)
    (hr : t.resp = some .ok) : issueAll (i :: is) s = issueAll is t := by
  simp only [issueAll, h, hr, if_true]

theorem issueAll_stop {i : Instr} {s t : State} (is : List Instr) (h : exec i s = .next t)
    (hr : t.resp ≠ some .ok) : issueAll (i :: is) s = .next t := by
  simp only [issueAll, h, hr, if_false]

section message
variable {s : State} {pw plen : Nat} (hfit : FitsData s pw plen)
include hfit

/-- A failed key derivation is the end of the message, whatever command was to follow. -/
theorem issueAll_fsInit_fail (is : List Instr)
    (hd : digestAnswer s.cfg.digest (windowBytes s.mem pw plen) = none) :
    issueAll (.fsInit pw 0 plen :: is) s = .next { s with fb := onesBlock, resp := some .errDigest } := by
  have hexec := exec_fsInit_fits 0 hfit
  rw [startSession_fail hd] at hexec
  exact issueAll_stop is hexec (by simp)

/-- After a successful one the command that follows is performed in the new session. -/
theorem issueAll_fsInit_keyed {d : Digest} {i : Instr} {t : State}
    (hd : digestAnswer s.cfg.digest (windowBytes s.mem pw plen) = some d)
    (hi : exec i (s.keyed d) = .next t) (hr : t.resp = some .ok) :
    issueAll [.fsInit pw 0 plen, i] s = .next t := by
  have hexec := exec_fsInit_fits 0 hfit
  rw [startSession_keyed hd] at hexec
  rw [issueAll_ok [i] hexec rfl, issueAll_ok [] hi hr, issueAll]

end message

/-- The state in which MSG_ENC or MSG_DEC, by its direction, ends when nothing is wrong. -/
def afterMessage (dir : Direction) (d : Digest) (src dst len : Nat) (s : State) : State :=
  respondOk (runStream dir src dst len (s.keyed d))

section afterMessage
variable {s : State} {pw plen src dst len : Nat} {d : Digest} (hpw : FitsData s pw plen)
  (hsrc : FitsData s src len) (hdst : FitsData s dst len)
  (hd : digestAnswer s.cfg.digest (windowBytes s.mem pw plen) = some d)

include hpw hsrc hdst hd in
theorem runPseudo_msgEnc :
    runPseudo (.msgEnc pw plen src dst len) s = .next (afterMessage .enc d src dst len s) :=
  issueAll_fsInit_keyed hpw hd (exec_fsEnc_fits (s.keyed d) src dst len hsrc hdst) rfl

include hpw hsrc hdst hd in
theorem runPseudo_msgDec :
    runPseudo (.msgDec pw plen src dst len) s = .next (afterMessage .dec d src dst len s) :=
  issueAll_fsInit_keyed hpw hd (exec_fsDec_fits (s.keyed d) src dst len hsrc hdst) rfl

end afterMessage

theorem afterMessage_sched (dir : Direction) (d : Digest) (src dst len : Nat) (s : State) :
    (afterMessage dir d src dst len s).sched = keySchedule d.toList :=
  (runStream_frame dir src dst len (s.keyed d)).sched

theorem afterMessage_cfg (dir : Direction) (d : Digest) (src dst len : Nat) (s : State) :
    (afterMessage dir d src dst len s).cfg = s.cfg :=
  (runStream_frame dir src dst len (s.keyed d)).cfg

theorem afterMessage_wf (dir : Direction) (d : Digest) (src dst len : Nat) {s : State}
    (hm : s.mem.wf = true) : (afterMessage dir d src dst len s).mem.wf = true :=
  (runStream_frame dir src dst len (s.keyed d)).wf hm

/-- A message leaves a window that shares no address with its destination as it was. -/
theorem afterMessage_window (dir : Direction) (d : Digest) (src : Nat) {dst len a n : Nat} (s : State)
    (h : DisjointWindows a n dst len) :
    windowBytes (afterMessage dir d src dst len s).mem a n = windowBytes s.mem a n := by
  rw [← memRead_eq_windowBytes, ← memRead_eq_windowBytes]
  exact memRead_congr a n fun x _ _ =>
    (runStream_frame dir src dst len (s.keyed d)).outside x (by omega)

/-- A message puts in its destination the stream of its source in the session of its password. -/
theorem afterMessage_byValue (dir : Direction) (d : Digest) {src dst len : Nat} {s : State}
    (hm : s.mem.wf = true) (hv : ByValueWindows src dst len) :
    (windowBytes (afterMessage dir d src dst len s).mem dst len, (afterMessage dir d src dst len s).fb) =
      streamBytes dir (keySchedule d.toList) (encBlk (keySchedule d.toList) onesBlock)
        (windowBytes s.mem src len) := by
  rw [← memRead_eq_windowBytes, ← memRead_eq_windowBytes]
  exact runStream_byValue dir (s := s.keyed d) hm hv

/-- MSG_DEC under the same digest, from the window MSG_ENC wrote, gives the message and the FB MSG_ENC left. -/
theorem afterMessage_roundTrip (d : Digest) {src mid dst len : Nat} {s : State} (hm : s.mem.wf = true)
    (hv : ByValueWindows src mid len) (hv' : ByValueWindows mid dst len) :
    (windowBytes (afterMessage .dec d mid dst len (afterMessage .enc d src mid len s)).mem dst len,
        (afterMessage .dec d mid dst len (afterMessage .enc d src mid len s)).fb) =
      (windowBytes s.mem src len, (afterMessage .enc d src mid len s).fb) := by
  obtain ⟨hmid, hfb⟩ := Prod.ext_iff.mp (afterMessage_byValue .enc d hm hv)
  rw [afterMessage_byValue .dec d (afterMessage_wf .enc d src mid len hm) hv']
  simp only at hmid hfb
  rw [hmid, hfb, streamBytes_roundTrip]

end Sys2Proof.Machine

open Sys2Proof Sys2Proof.Machine

/-- Settles O1: decoding undoes encoding, and the numbering of the bits loses nothing of a transaction that
fits. -/
theorem decodingAnEncodedCommandGivesItBack : Obligations.DecodingAnEncodedCommandGivesItBack := by
  intro aw i hwf
  refine ⟨decode_encode_of_wellFormed hwf, ?_, toBits_lt aw (encode i)⟩
  rw [ofBits_toBits (fits_encode hwf), decode_encode_of_wellFormed hwf]

/-- Settles O2, from the fields of a transaction that decodes. -/
theorem encodingADecodedCommandGivesItBack : Obligations.EncodingADecodedCommandGivesItBack := by
  intro aw t i hfits hd
  obtain ⟨hop, ha, hb, hlen, hwf⟩ := decode_fields hd
  obtain ⟨fa, fb, flen⟩ := (Transaction.fits_iff aw t).mp hfits
  rw [onWires_of_fits fa] at ha
  rw [onWires_of_fits fb] at hb
  rw [onWires_of_fits flen] at hlen
  obtain ⟨op, a, b, len⟩ := t
  subst hop ha hb hlen
  exact ⟨rfl, hwf⟩

/-- Settles O3: a selected transaction is the encoding of its row's command, and a transaction that decodes is
selected by its command's row. -/
theorem decoderFollowsTheOpcodeMap : Obligations.DecoderFollowsTheOpcodeMap := by
  refine ⟨fun aw t => ⟨fun r hr hsel => ?_, fun hnone => ?_⟩, by decide +kernel⟩
  · obtain ⟨i, rfl, hname⟩ := exists_command_of_row hr ((selects_iff hr t.op).mp hsel)
    exact ⟨i.carried aw, decode_encode aw i, (i.mnemonic_carried aw).trans hname⟩
  · cases hd : decode aw t with
    | error e => exact ⟨e, rfl⟩
    | ok i =>
      obtain ⟨hop, _⟩ := decode_fields hd
      obtain ⟨r, hr, hpat⟩ := exists_row_of_command i
      have hsel := (selects_iff hr t.op).mpr (hop.trans hpat.symm)
      exact absurd hsel (by simp [hnone r hr])

/-- Settles O53: both messages begin with FS_INIT, and its failure is their end. -/
theorem failedDerivationStopsTheMessage : Obligations.FailedDerivationStopsTheMessage :=
  fun _ _ _ _ _ _ hfit hd => ⟨issueAll_fsInit_fail hfit _ hd, issueAll_fsInit_fail hfit _ hd⟩

/-- Settles O54: the password is still in its window after MSG_ENC, so both messages run in the same session,
where the streams undo each other. -/
theorem messageRoundTrip : Obligations.MessageRoundTrip := by
  intro s pw plen src mid dst len d hm hpw hsrc hmid hdst hv hv' hdisj hd
  have hcfg := afterMessage_cfg .enc d src mid len s
  have hkept := afterMessage_window .enc d src s hdisj
  have hfits {base n : Nat} (h : FitsData s base n) : FitsData (afterMessage .enc d src mid len s) base n := by
    rwa [FitsData, hcfg]
  obtain ⟨hmsg, hfb⟩ := Prod.ext_iff.mp (afterMessage_roundTrip d hm hv hv')
  refine ⟨_, _, runPseudo_msgEnc hpw hsrc hmid hd,
    runPseudo_msgDec (hfits hpw) (hfits hmid) (hfits hdst) ?_, rfl, rfl, hmsg, hfb, ?_⟩
  · rwa [hcfg, hkept]
  · rw [afterMessage_sched, afterMessage_sched]

/-- Settles O4: each clause evaluates the decoder on one word. -/
theorem specWordsDecode : Obligations.SpecWordsDecode := by
  unfold Obligations.SpecWordsDecode
  decide

/-- Settles O5: the second clause is the first, the word standing first on the port. -/
theorem stepRunsTheDecodedCommand : Obligations.StepRunsTheDecodedCommand :=
  ⟨fun _ _ _ _ hp hd => step_command hp hd, fun s n w _ hd => step_command (s := s.withFetchWord n w) rfl hd⟩

/-- Settles O6: an idle step keeps the state. -/
theorem idleBlockDoesNothing : Obligations.IdleBlockDoesNothing := fun _ hp => step_idle hp
end

section
/-! PROOFS of the statements of 40_cipher_engine.md: F (R120), ENCBLK and DECBLK (R121 to R123, R132), KEYMIX (R125,
R126), FILL (R127), and the commands CE_INIT, CE_ENC and CE_DEC (R124, R128, R129). -/

namespace Sys2Proof.Machine

/-! ## The bytes of a word and the entries of an array, as numbers -/

theorem byte0_toNat (w : Word) : (byte0 w).toNat = w.toNat / 2 ^ 24 := by
  rw [byte0, BitVec.extractLsb'_toNat, Nat.shiftRight_eq_div_pow, Nat.mod_eq_of_lt]
  exact Nat.div_lt_of_lt_mul w.isLt

theorem byte1_toNat (w : Word) : (byte1 w).toNat = w.toNat / 2 ^ 16 % 256 := by
  rw [byte1, BitVec.extractLsb'_toNat, Nat.shiftRight_eq_div_pow]

theorem byte2_toNat (w : Word) : (byte2 w).toNat = w.toNat / 2 ^ 8 % 256 := by
  rw [byte2, BitVec.extractLsb'_toNat, Nat.shiftRight_eq_div_pow]

theorem byte3_toNat (w : Word) : (byte3 w).toNat = w.toNat % 256 := by
  rw [byte3, BitVec.extractLsb'_toNat, Nat.shiftRight_zero]

/-- An entry of an array of the schedule, read through its list. -/
theorem toList_getD {n i : Nat} (v : Vector Word n) (h : i < n) : v.toList.getD i 0 = v[i] := by
  simp [h]

theorem wrapAdd_toNat (a b : Word) : (wrapAdd a b).toNat = (a.toNat + b.toNat) % 2 ^ 32 :=
  BitVec.toNat_add a b

/-! ## DECBLK as ENCBLK on the reversed P-array (R122) -/

/-- The schedule with `P[j]` replaced by `P[17-j]`. -/
def Schedule.reversed (k : Schedule) : Schedule :=
  { k with p := Vector.ofFn fun j : Fin 18 => k.p[17 - j.val] }

theorem reversed_p_get (k : Schedule) (i : Fin 18) : k.reversed.p.get i = k.p.get i.rev := by
  simp [Schedule.reversed, Vector.get_eq_getElem, Fin.val_rev]

theorem reversed_reversed (k : Schedule) : k.reversed.reversed = k := by
  obtain ⟨p, s1, s2, s3, s4⟩ := k
  simp only [Schedule.reversed, Schedule.mk.injEq, and_true]
  ext1 i hi
  simp only [Vector.getElem_ofFn, show 17 - (17 - i) = i by omega]

/-- F reads the S-boxes only. -/
theorem roundF_reversed (k : Schedule) (x : Word) : roundF k.reversed x = roundF k x := by
  simp only [roundF, Schedule.reversed]

theorem doubleRound_reversed (k : Schedule) (u v : Word) (hl : Word × Word) :
    doubleRound k.reversed u v hl = doubleRound k u v hl := by
  simp only [doubleRound, roundF_reversed]

/-- DECBLK's loop takes the indices of ENCBLK's, each counted from the other end. -/
theorem decIndices_eq_rev : decIndices = encIndices.map Fin.rev := by decide

theorem rev_add_one : ∀ i : Fin 18, (i + 1).rev = i.rev - 1 := by decide

/-- R122: the same rounds under the reversed P-array. -/
theorem decBlk_eq_encBlk_reversed (k : Schedule) (b : Block) : decBlk k b = encBlk k.reversed b := by
  have h0 : k.reversed.p[0] = k.p[17] := reversed_p_get k 0
  have h17 : k.reversed.p[17] = k.p[0] := reversed_p_get k 17
  simp only [decBlk, encBlk, h0, h17, decIndices_eq_rev, List.foldl_map, reversed_p_get, rev_add_one,
    doubleRound_reversed]

/-- R132, the other order: decryption and encryption change places under the reversed P-array. -/
theorem encBlk_decBlk (k : Schedule) (b : Block) : encBlk k (decBlk k b) = b :=
  calc encBlk k (decBlk k b)
      = encBlk k.reversed.reversed (encBlk k.reversed b) := by
        rw [reversed_reversed, decBlk_eq_encBlk_reversed]
    _ = decBlk k.reversed (encBlk k.reversed b) := (decBlk_eq_encBlk_reversed ..).symm
    _ = b := decBlk_encBlk ..

/-! ## The all-zero schedule (R123) -/

theorem roundF_zero (x : Word) : roundF Schedule.zero x = 0 := by
  simp [roundF, Schedule.zero, wrapAdd]

theorem zero_p_get (i : Fin 18) : Schedule.zero.p.get i = 0 := by
  simp [Schedule.zero, Vector.get_eq_getElem]

theorem zero_reversed : Schedule.zero.reversed = Schedule.zero := by
  have hp : Schedule.zero.reversed.p = Schedule.zero.p := by
    ext1 i hi
    exact (reversed_p_get Schedule.zero ⟨i, hi⟩).trans
      ((zero_p_get _).trans (zero_p_get ⟨i, hi⟩).symm)
  exact congrArg (fun p => { Schedule.zero with p := p }) hp

theorem doubleRound_zero (hl : Word × Word) : doubleRound Schedule.zero 0 0 hl = hl := by
  simp [doubleRound, roundF_zero]

theorem foldl_doubleRound_zero (l : List (Fin 18)) (hl : Word × Word) :
    l.foldl (fun hl i => doubleRound Schedule.zero (Schedule.zero.p.get i)
      (Schedule.zero.p.get (i + 1)) hl) hl = hl := by
  induction l with
  | nil => rfl
  | cons i l ih => rw [List.foldl_cons, zero_p_get, zero_p_get, doubleRound_zero, ih]

theorem swapHalves_eq (b : Block) : swapHalves b = blockOfWords (secondWord b) (firstWord b) := by
  simp [swapHalves, blockOfWords, secondWord, firstWord]

theorem encBlk_zero (b : Block) : encBlk Schedule.zero b = swapHalves b := by
  have h0 : Schedule.zero.p[0] = 0 := zero_p_get 0
  have h17 : Schedule.zero.p[17] = 0 := zero_p_get 17
  simp only [encBlk, foldl_doubleRound_zero, h0, h17, BitVec.ofNat_eq_ofNat, BitVec.xor_zero, swapHalves_eq]

theorem decBlk_zero (b : Block) : decBlk Schedule.zero b = swapHalves b := by
  rw [decBlk_eq_encBlk_reversed, zero_reversed, encBlk_zero]

/-! ## KEYMIX (R125, R126) -/

theorem be32_inj {a b c d a' b' c' d' : Byte} :
    be32 a b c d = be32 a' b' c' d' ↔ a = a' ∧ b = b' ∧ c = c' ∧ d = d' := by
  refine ⟨fun h => ⟨?_, ?_, ?_, ?_⟩, fun ⟨ha, hb, hc, hd⟩ => by rw [ha, hb, hc, hd]⟩
  · simpa using congrArg byte0 h
  · simpa using congrArg byte1 h
  · simpa using congrArg byte2 h
  · simpa using congrArg byte3 h

/-- R125's inner loop, four bytes from walk position `4i`, builds the key word. -/
theorem keyWordLoop_four (key : List Byte) (i : Nat) : keyWordLoop key (4 * i) 4 0 = keyWord key i := by
  apply BitVec.eq_of_toNat_eq
  simp only [keyWord, be32_toNat, keyWordLoop, walkByte, BitVec.ofNat_eq_ofNat, BitVec.toNat_ofNat, Nat.add_assoc,
    Nat.reduceAdd]
  omega

/-- R125's outer loop from entry `i` on, `n` entries: each is exclusive-ored with its key word. -/
theorem keyMixLoop_getD (key : List Byte) (n : Nat) : ∀ (i : Nat) (p : Vector Word 18) (m : Nat), i + n ≤ 18 →
    (keyMixLoop key n i (4 * i) p).toList.getD m 0 =
      if i ≤ m ∧ m < i + n then p.toList.getD m 0 ^^^ keyWord key m else p.toList.getD m 0 := by
  induction n with
  | zero =>
    intro i p m _
    rw [keyMixLoop, if_neg (by omega)]
  | succ n ih =>
    intro i p m h
    rw [keyMixLoop, ← Nat.mul_succ, ih (i + 1) _ m (by omega), getD_setIfInBounds _ _ _ _ (by omega),
      keyWordLoop_four]
    by_cases hm : m = i
    · subst hm
      rw [if_neg (by omega), if_pos rfl, if_pos (by omega)]
    · rw [if_neg hm]
      exact if_congr (by omega) rfl rfl

theorem keyMix_p_eq_loop (key : List Byte) (k : Schedule) :
    (keyMix key k).p = keyMixLoop key 18 0 0 k.p := by
  ext1 i hi
  rw [keyMix_p key k i hi, ← toList_getD k.p hi, ← toList_getD _ hi, keyMixLoop_getD key 18 0 k.p i le_rfl,
    if_pos (by omega)]

/-- The result of KEYMIX fixes the 18 key words, and they fix it. -/
theorem keyMix_eq_iff (key key' : List Byte) (k : Schedule) :
    keyMix key k = keyMix key' k ↔ ∀ i < 18, keyWord key i = keyWord key' i := by
  constructor
  · intro h i hi
    have hp : (keyMix key k).p[i] = (keyMix key' k).p[i] := by rw [h]
    rwa [keyMix_p key k i hi, keyMix_p key' k i hi, BitVec.xor_right_inj] at hp
  · intro h
    have hword : (fun i : Fin 18 => k.p[i] ^^^ keyWord key i) = fun i : Fin 18 => k.p[i] ^^^ keyWord key' i :=
      funext fun i => by rw [h i i.isLt]
    rw [keyMix, hword, keyMix]

/-- The 18 key words are the first 72 bytes of the walk (R126 (c)). -/
theorem keyWords_eq_iff (key key' : List Byte) :
    (∀ i < 18, keyWord key i = keyWord key' i) ↔ ∀ j < 72, walkByte key j = walkByte key' j := by
  simp only [keyWord, be32_inj]
  constructor
  · intro h j hj
    obtain ⟨h0, h1, h2, h3⟩ := h (j / 4) (by omega)
    have hcases : j = 4 * (j / 4) ∨ j = 4 * (j / 4) + 1 ∨ j = 4 * (j / 4) + 2 ∨ j = 4 * (j / 4) + 3 := by omega
    rcases hcases with e | e | e | e <;> rw [e] <;> assumption
  · intro h i hi
    exact ⟨h _ (by omega), h _ (by omega), h _ (by omega), h _ (by omega)⟩

theorem keyMix_eq_iff_walk (key key' : List Byte) (k : Schedule) :
    keyMix key k = keyMix key' k ↔ ∀ j < 72, walkByte key j = walkByte key' j :=
  (keyMix_eq_iff ..).trans (keyWords_eq_iff ..)

/-! ## Keys with one schedule (R124 (c), R126) -/

theorem keySchedule_nil : keySchedule [] = Schedule.constants := if_pos rfl

theorem keySchedule_of_pos {key : List Byte} (h : 0 < key.length) :
    keySchedule key = fill (keyMix key Schedule.constants) := if_neg (Nat.ne_of_gt h)

/-- CE_INIT sees of a non-empty key the first 72 bytes of its walk only. -/
theorem keySchedule_congr {key key' : List Byte} (h : 0 < key.length) (h' : 0 < key'.length)
    (hwalk : ∀ j < 72, walkByte key j = walkByte key' j) : keySchedule key = keySchedule key' := by
  rw [keySchedule_of_pos h, keySchedule_of_pos h', (keyMix_eq_iff_walk ..).mpr hwalk]

theorem getD_append_self {l : List Byte} {r : Nat} (h : r < l.length + l.length) :
    (l ++ l).getD r 0 = l.getD (r % l.length) 0 := by
  by_cases hr : r < l.length
  · rw [List.getD_append _ _ _ _ hr, Nat.mod_eq_of_lt hr]
  · have hsub : r - l.length < l.length := by omega
    rw [List.getD_append_right _ _ _ _ (by omega), Nat.mod_eq_sub_mod (by omega), Nat.mod_eq_of_lt hsub]

theorem walkByte_append_self {key : List Byte} (h : 0 < key.length) (j : Nat) :
    walkByte (key ++ key) j = walkByte key j := by
  have hdvd : key.length ∣ key.length + key.length := Dvd.intro 2 (Nat.mul_two _)
  rw [walkByte, walkByte, List.length_append, getD_append_self (Nat.mod_lt j (Nat.add_pos_left h _)),
    Nat.mod_mod_of_dvd j hdvd]

theorem walkByte_replicate_zero (n j : Nat) : walkByte (List.replicate n 0) j = 0 := by
  rw [walkByte, List.getD_eq_getElem?_getD]
  exact List.getElem?_getD_replicate_default_eq _ n _

theorem walkByte_take {key : List Byte} (h : 72 ≤ key.length) {j : Nat} (hj : j < 72) :
    walkByte key j = walkByte (key.take 72) j := by
  have hlen : (key.take 72).length = 72 := List.length_take_of_le h
  simp only [walkByte, hlen, Nat.mod_eq_of_lt hj, Nat.mod_eq_of_lt (hj.trans_le h),
    List.getD_eq_getElem?_getD, List.getElem?_take_of_lt hj]

/-! ## FILL (R127) -/

/-- `CHAIN` and the schedule after the first `n` encryptions of FILL. -/
def fillRun (k : Schedule) (n : Nat) : Block × Schedule :=
  (fillOps.take n).foldl (fun c op => fillStep op.1 c op.2) (zeroBlock, k)

theorem fillOps_length : fillOps.length = 521 := by simp [fillOps, fillStages]

/-- The `n`-th encryption is for slots `2n` and `2n + 1`, both in one array. -/
theorem fillOps_slots {n : Nat} (h : n < fillOps.length) :
    slotBase fillOps[n].1 + 2 * fillOps[n].2 = 2 * n ∧
      2 * fillOps[n].2 + 1 < slotCount fillOps[n].1 := by
  rw [fillOps_length] at h
  simp only [fillOps, fillStages, List.flatMap_cons, List.flatMap_nil, List.getElem_append, List.getElem_map,
    List.getElem_range, List.length_map, List.length_range]
  split_ifs <;> simp only [slotBase, slotCount] <;> omega

theorem fillRun_succ (k : Schedule) {n : Nat} (h : n < fillOps.length) :
    fillRun k (n + 1) = fillStep fillOps[n].1 (fillRun k n) fillOps[n].2 := by
  rw [fillRun, ← List.take_concat_get' _ _ h, List.foldl_append]
  rfl

/-- Each encryption uses the schedule as it is at that moment. -/
theorem fillRun_chain (k : Schedule) {n : Nat} (h : n < 521) :
    (fillRun k (n + 1)).1 = encBlk (fillRun k n).2 (fillRun k n).1 := by
  rw [fillRun_succ k (fillOps_length ▸ h), fillStep]

theorem fillRun_all (k : Schedule) : (fillRun k 521).2 = fill k := by
  rw [fill_eq_foldl, fillRun, List.take_of_length_le fillOps_length.le]

/-- What one step of FILL leaves in each slot. -/
theorem slotWord_fillStep (arr : SchedArray) (c : Block × Schedule) {i : Nat} (h : 2 * i + 1 < slotCount arr)
    {j : Nat} (hj : j < 1042) :
    slotWord (fillStep arr c i).2 j =
      if j = slotBase arr + 2 * i + 1 then secondWord (fillStep arr c i).1
      else if j = slotBase arr + 2 * i then firstWord (fillStep arr c i).1
      else slotWord c.2 j := by
  rw [fillStep, slotWord_writeSlot _ _ _ _ h j hj, slotWord_writeSlot _ _ _ _ (by omega) j hj]
  rfl

/-- After `n` encryptions the first `2n` slots hold the words of the chain, the others what they held before. -/
theorem slotWord_fillRun (k : Schedule) {n : Nat} (hn : n ≤ 521) {j : Nat} (hj : j < 1042) :
    slotWord (fillRun k n).2 j =
      if j < 2 * n then
        if j % 2 = 0 then firstWord (fillRun k (j / 2 + 1)).1 else secondWord (fillRun k (j / 2 + 1)).1
      else slotWord k j := by
  induction n with
  | zero => rfl
  | succ n ih =>
    have hlen : n < fillOps.length := fillOps_length ▸ hn
    obtain ⟨hslot, hcount⟩ := fillOps_slots hlen
    rw [fillRun_succ k hlen, slotWord_fillStep _ _ hcount hj, hslot, ← fillRun_succ k hlen, ih (by omega)]
    by_cases h1 : j = 2 * n + 1
    · have hdiv : j / 2 = n := by omega
      rw [if_pos h1, if_pos (by omega), if_neg (by omega), hdiv]
    · by_cases h0 : j = 2 * n
      · have hdiv : j / 2 = n := by omega
        rw [if_neg h1, if_pos h0, if_pos (by omega), if_pos (by omega), hdiv]
      · rw [if_neg h1, if_neg h0]
        exact if_congr (by omega) rfl rfl

/-! ## CE_INIT (R124) -/

theorem keyWindows_past {s : State} {key off len : Nat} (h : PastData s (key + off) len) :
    windowsFit s.cfg.aw (keyWindows key off len) = false := by
  rw [← Bool.not_eq_true, keyWindows_fit]
  omega

theorem exec_ceInit_past {s : State} {key off len : Nat} (h : PastData s (key + off) len) :
    exec (.ceInit key off len) s = .next { s with resp := some .errRange } := by
  simp only [exec, execCeInit]
  rw [rangeChecked_past _ (keyWindows_past h), raiseError_eq]

theorem exec_ceInit_fits {s : State} {key off len : Nat} (h : FitsData s (key + off) len) :
    exec (.ceInit key off len) s =
      .next { s with sched := keySchedule (windowBytes s.mem (key + off) len), resp := some .ok } := by
  simp only [exec, execCeInit]
  rw [rangeChecked_fits _ ((keyWindows_fit ..).mpr h), loadSchedule_eq, respondOk_eq, memRead_eq_windowBytes]

/-! ## CE_ENC and CE_DEC (R128, R129) -/

/-- What CE_ENC and CE_DEC share, their block operation being `f`. -/
def blockCommand (f : Schedule → Block → Block) (src dst len : Nat) (s : State) : Outcome :=
  rangeChecked (blockWindows src dst len)
    (fun s => respondOk (s.setMem (blockLoop (f s.sched) src dst len s.mem))) s

theorem exec_ceEnc (src dst len : Nat) (s : State) :
    exec (.ceEnc src dst len) s = blockCommand encBlk src dst len s := rfl

theorem exec_ceDec (src dst len : Nat) (s : State) :
    exec (.ceDec src dst len) s = blockCommand decBlk src dst len s := rfl

section blockCommand
variable (f : Schedule → Block → Block) {src dst len : Nat} {s : State}

theorem blockCommand_past (h : PastData s src (floor8 len) ∨ PastData s dst (floor8 len)) :
    blockCommand f src dst len s = .next { s with resp := some .errRange } := by
  have hpast : windowsFit s.cfg.aw (blockWindows src dst len) = false := by
    rw [← Bool.not_eq_true, blockWindows_fit]
    omega
  rw [blockCommand, rangeChecked_past _ hpast, raiseError_eq]

theorem blockCommand_fits (hsrc : FitsData s src (floor8 len)) (hdst : FitsData s dst (floor8 len)) :
    blockCommand f src dst len s =
      .next { s with mem := blockLoop (f s.sched) src dst len s.mem, resp := some .ok } :=
  rangeChecked_fits _ ((blockWindows_fit ..).mpr ⟨hsrc, hdst⟩)

/-- Fewer than 8 bytes hold no block: both windows are empty. -/
theorem blockCommand_short (h : len < 8) :
    blockCommand f src dst len s = .next { s with resp := some .ok } := by
  have hempty : floor8 len = 0 := by rw [floor8_eq]; omega
  rw [blockCommand_fits f (.inl hempty) (.inl hempty), blockLoop_empty _ _ _ h]

/-- The first block, and then the same command on the remaining bytes. -/
theorem blockCommand_full (h : 8 ≤ len) (hsrc : FitsData s src (floor8 len))
    (hdst : FitsData s dst (floor8 len)) :
    blockCommand f src dst len s = blockCommand f (src + 8) (dst + 8) (len - 8)
      { s with mem := memWrite s.mem dst (f s.sched (blockOf (windowBytes s.mem src 8))).toList } := by
  have hrest {base : Nat} (hfit : FitsData s base (floor8 len)) : FitsData s (base + 8) (floor8 (len - 8)) := by
    rw [floor8_eq] at hfit ⊢
    omega
  rw [blockCommand_fits f hsrc hdst, blockLoop_peel _ _ _ h, blockAt_zero, memRead_eq_windowBytes]
  exact Eq.symm (blockCommand_fits f (hrest hsrc) (hrest hdst))

end blockCommand

/-! ## CE_DEC after CE_ENC (R131 (e)) -/

/-- Two windows agree when they agree block by block. -/
theorem memRead_eq_of_blocks {m m' : Memory} {a b : Nat} : ∀ {q : Nat},
    (∀ n < q, memRead m (a + 8 * n) 8 = memRead m' (b + 8 * n) 8) → memRead m a (8 * q) = memRead m' b (8 * q)
  | 0, _ => rfl
  | q + 1, h => by
    rw [Nat.mul_succ, memRead_add, memRead_add, h q (Nat.lt_succ_self q),
      memRead_eq_of_blocks fun n hn => h n (Nat.lt_succ_of_lt hn)]

/-- A block loop with `g` after one with `f` restores the source's bytes where `g` undoes `f`, both windows
being of a by-value form. -/
theorem blockLoop_undo {f g : Block → Block} (hgf : ∀ b, g (f b) = b) {src mid dst len : Nat} {m : Memory}
    (hm : m.wf = true) (hv : ByValueWindows src mid (floor8 len)) (hv' : ByValueWindows mid dst (floor8 len)) :
    memRead (blockLoop g mid dst len (blockLoop f src mid len m)) dst (floor8 len) =
      memRead m src (floor8 len) := by
  rw [floor8_eq len]
  refine memRead_eq_of_blocks fun n hn => ?_
  rw [blockLoop_byValue g (blockLoop_wf f src mid len hm) hv' hn, blockLoop_byValue f hm hv hn,
    blockOf_toList, hgf, toList_blockOf (memRead_length ..)]

end Sys2Proof.Machine

open Sys2Proof Sys2Proof.Machine

/-- Settles O26: the four bytes of `x` as numbers, and each operation on words as numbers. -/
theorem roundFunctionIsLeftToRight : Obligations.RoundFunctionIsLeftToRight := by
  intro k x
  rw [← byte0_toNat, ← byte1_toNat, ← byte2_toNat, ← byte3_toNat, toList_getD k.s1 (byte0 x).isLt,
    toList_getD k.s2 (byte1 x).isLt, toList_getD k.s3 (byte2 x).isLt, toList_getD k.s4 (byte3 x).isLt]
  simp only [roundF, wrapAdd_toNat, BitVec.toNat_xor]

/-- Settles O27. -/
theorem blockOperationsAreInverse : Obligations.BlockOperationsAreInverse :=
  fun k b => ⟨decBlk_encBlk k b, encBlk_decBlk k b⟩

/-- Settles O28. -/
theorem decryptionReversesThePArray : Obligations.DecryptionReversesThePArray :=
  decBlk_eq_encBlk_reversed

/-- Settles O29: on the all-zero schedule every double round is the identity. -/
theorem zeroScheduleExchangesHalves : Obligations.ZeroScheduleExchangesHalves :=
  ⟨roundF_zero, fun b => ⟨encBlk_zero b, decBlk_zero b⟩⟩

/-- Settles O30, from the invariant of R125's outer loop. -/
theorem keyMixIsTheWalkLoop : Obligations.KeyMixIsTheWalkLoop := by
  intro key k _
  refine ⟨keyMix_p_eq_loop key k, fun i hi => ?_, keyMix_s1 key k, keyMix_s2 key k, keyMix_s3 key k,
    keyMix_s4 key k⟩
  rw [toList_getD _ hi, toList_getD _ hi]
  exact keyMix_p key k i hi

/-- Settles O31. -/
theorem keyMixSeesExactlyTheWalk : Obligations.KeyMixSeesExactlyTheWalk :=
  fun k key key' _ _ => keyMix_eq_iff_walk key key' k

/-- Settles O32: in each case the walks are equal. -/
theorem equivalentKeysGiveOneSchedule : Obligations.EquivalentKeysGiveOneSchedule := by
  refine ⟨fun key => ?_, fun a b ha hb => ?_, fun key h => ?_⟩
  · rcases key.length.eq_zero_or_pos with h0 | hpos
    · rw [List.length_eq_zero_iff.mp h0, List.append_nil]
    · exact keySchedule_congr (by rw [List.length_append]; omega) hpos fun j _ => walkByte_append_self hpos j
  · exact keySchedule_congr (by rw [List.length_replicate]; exact ha) (by rw [List.length_replicate]; exact hb)
      fun j _ => by rw [walkByte_replicate_zero, walkByte_replicate_zero]
  · exact keySchedule_congr (by omega) (by rw [List.length_take_of_le h]; omega) fun j hj => walkByte_take h hj

/-- Settles O33: chain and schedule after each number of encryptions. -/
theorem fillIsOneChainOf521Encryptions : Obligations.FillIsOneChainOf521Encryptions := by
  intro k
  exact ⟨fun n => (fillRun k n).1, fun n => (fillRun k n).2, rfl, rfl, fillRun_all k,
    fun n hn => fillRun_chain k hn, fun n hn j hj => slotWord_fillRun k hn hj⟩

/-- Settles O34, from what CE_INIT does where its key window fits and where not. -/
theorem ceInitBuildsTheSchedule : Obligations.CeInitBuildsTheSchedule := by
  refine fun s key off len => ⟨exec_ceInit_past, fun h0 => ?_, fun hpos hfit => ?_⟩
  · subst h0
    rw [exec_ceInit_fits (.inl rfl)]
    exact keySchedule_nil ▸ rfl
  · rw [exec_ceInit_fits (.inr hfit), keySchedule_of_pos (by simpa [windowBytes] using hpos)]

/-- Settles O35. -/
theorem ceEncGoesBlockByBlock : Obligations.CeEncGoesBlockByBlock := by
  intro s src dst len
  simp only [exec_ceEnc]
  exact ⟨blockCommand_past encBlk, blockCommand_short encBlk, blockCommand_full encBlk⟩

/-- Settles O36. -/
theorem ceDecGoesBlockByBlock : Obligations.CeDecGoesBlockByBlock := by
  intro s src dst len
  simp only [exec_ceDec]
  exact ⟨blockCommand_past decBlk, blockCommand_short decBlk, blockCommand_full decBlk⟩

/-- Settles O37: the block loop writes its destination window only. -/
theorem blockCommandsCompleteAndFrame : Obligations.BlockCommandsCompleteAndFrame := by
  rintro s src dst len hsrc hdst i (rfl | rfl)
  · exact ⟨_, exec_ceEnc_fits s src dst len hsrc hdst, rfl, blockLoop_read_other _ _ _ _ _⟩
  · exact ⟨_, exec_ceDec_fits s src dst len hsrc hdst, rfl, blockLoop_read_other _ _ _ _ _⟩

/-- Settles O39: DECBLK undoes ENCBLK block by block, both commands being by value on these windows. -/
theorem ceDecUndoesCeEnc : Obligations.CeDecUndoesCeEnc := by
  intro s src mid dst len hm hsrc hmid hdst hv hv'
  refine ⟨_, _, exec_ceEnc_fits s src mid len hsrc hmid, exec_ceDec_fits _ mid dst len hmid hdst, ?_⟩
  rw [← memRead_eq_windowBytes, ← memRead_eq_windowBytes]
  exact blockLoop_undo (decBlk_encBlk s.sched) hm hv hv'
end

section
/-! PROOFS of the statements of 41_feedback_session.md: FS_DISPATCH (R160), the rounds (R161 to R163), the streams
(R166), and the commands FS_ENC, FS_DEC and FS_INIT (R164, R165, R167). -/

namespace Sys2Proof.Machine

/-! ## Round dispatch and rounds -/

theorem fsDispatch_eq_done_iff (dir : Direction) (r : Nat) : fsDispatch dir r = .done ↔ r = 0 := by
  by_cases h8 : 8 ≤ r
  · rw [fsDispatch_full dir h8]
    cases dir <;> simp only [reduceCtorEq, false_iff] <;> omega
  · by_cases h0 : r = 0
    · simp only [h0, fsDispatch_done]
    · simp only [fsDispatch_tail dir (Nat.not_le.mp h8) h0, h0, reduceCtorEq]

/-- R162, the other order: the full encrypt round undoes the full decrypt round and leaves the same FB. -/
theorem fsFullEnc_fsFullDec (k : Schedule) (fb c : Block) :
    fsFullEnc k fb (fsFullDec k fb c).1 = (c, (fsFullDec k fb c).2) := by
  simp only [fsFullEnc, fsFullDec, xorBlock_cancel, encBlk_decBlk]

theorem xorBytes_getD : ∀ {k x : List Byte} {j : Nat}, x.length ≤ k.length → j < x.length →
    (xorBytes k x).getD j 0 = k.getD j 0 ^^^ x.getD j 0
  | _, [], _, _, hj => absurd hj (Nat.not_lt_zero _)
  | [], _ :: _, _, hle, _ => absurd hle (Nat.not_succ_le_zero _)
  | _ :: _, _ :: _, 0, _, _ => rfl
  | _ :: k, _ :: x, _ + 1, hle, hj =>
    xorBytes_getD (k := k) (x := x) (Nat.le_of_succ_le_succ hle) (Nat.lt_of_succ_lt_succ hj)

/-! ## Streams (R166) -/

/-- R166 (b), chunk by chunk. -/
theorem streamBytes_length (dir : Direction) (k : Schedule) (fb : Block) (m : List Byte) :
    (streamBytes dir k fb m).1.length = m.length := by
  induction m using message_induction generalizing fb with
  | done => rfl
  | tail m hne hlt => rw [streamBytes_tail dir k fb hlt hne, fsTail_length k fb hlt.le]
  | full m h8 ih =>
    rw [streamBytes_full dir k fb h8, List.length_append, ih, toList_length, List.length_drop,
      Nat.add_sub_cancel' h8]

theorem blockOf_append {m : List Byte} (h : 8 ≤ m.length) (m' : List Byte) :
    blockOf (m ++ m') = blockOf m := by
  rw [← blockOf_take (m ++ m') 8 le_rfl, List.take_append_of_le_length h, blockOf_take m 8 le_rfl]

/-- R166 (d): a first part of whole chunks ends between two rounds, so the second part goes on where it ends. -/
theorem streamBytes_append (dir : Direction) (k : Schedule) (fb : Block) {m : List Byte} (m' : List Byte)
    (hm : m.length % 8 = 0) :
    streamBytes dir k fb (m ++ m') =
      ((streamBytes dir k fb m).1 ++ (streamBytes dir k (streamBytes dir k fb m).2 m').1,
        (streamBytes dir k (streamBytes dir k fb m).2 m').2) := by
  induction m using message_induction generalizing fb with
  | done => rw [streamBytes_nil]; rfl
  | tail m hne hlt =>
    have hpos := List.length_pos_iff.mpr hne
    omega
  | full m h8 ih =>
    have hrest : (m.drop 8).length % 8 = 0 := by rw [List.length_drop]; omega
    rw [streamBytes_full dir k fb (m := m ++ m') (by rw [List.length_append]; omega), blockOf_append h8,
      List.drop_append_of_le_length h8, ih _ hrest, streamBytes_full dir k fb h8, List.append_assoc]

/-- R166 (e): the whole chunks at the start of a message are a first part of their own. -/
theorem take_streamBytes (dir : Direction) (k : Schedule) (fb : Block) {m : List Byte} {n : Nat}
    (h : 8 * n ≤ m.length) :
    (streamBytes dir k fb m).1.take (8 * n) = (streamBytes dir k fb (m.take (8 * n))).1 := by
  have htake : (m.take (8 * n)).length = 8 * n := List.length_take_of_le h
  have split := streamBytes_append dir k fb (m.drop (8 * n)) (m := m.take (8 * n)) (by omega)
  rw [List.take_append_drop] at split
  rw [split, List.take_left' ((streamBytes_length ..).trans htake)]

/-- R166 (f): a tail moves FB by the whole keystream block, whatever the data. -/
theorem streamBytes_tail_fb (dir : Direction) (k : Schedule) (fb : Block) {m : List Byte} (h1 : 1 ≤ m.length)
    (h7 : m.length ≤ 7) : (streamBytes dir k fb m).2 = xorBlock fb (encBlk k fb) := by
  rw [streamBytes_tail dir k fb (by omega) (List.length_pos_iff.mp h1), fsTail]

/-! ## FS_ENC and FS_DEC (R164, R165) -/

/-- What FS_ENC and FS_DEC share, by their direction. -/
def streamCommand (dir : Direction) (src dst len : Nat) (s : State) : Outcome :=
  rangeChecked (streamWindows src dst len) (fun s => respondOk (runStream dir src dst len s)) s

theorem exec_fsEnc (src dst len : Nat) (s : State) :
    exec (.fsEnc src dst len) s = streamCommand .enc src dst len s := rfl

theorem exec_fsDec (src dst len : Nat) (s : State) :
    exec (.fsDec src dst len) s = streamCommand .dec src dst len s := rfl

section streamCommand
variable (dir : Direction) {src dst len : Nat} {s : State}

theorem streamCommand_past (h : PastData s src len ∨ PastData s dst len) :
    streamCommand dir src dst len s = .next { s with resp := some .errRange } := by
  have hpast : windowsFit s.cfg.aw (streamWindows src dst len) = false := by
    rw [← Bool.not_eq_true, streamWindows_fit]
    omega
  rw [streamCommand, rangeChecked_past _ hpast, raiseError_eq]

theorem streamCommand_fits (hsrc : FitsData s src len) (hdst : FitsData s dst len) :
    streamCommand dir src dst len s = .next (respondOk (runStream dir src dst len s)) :=
  rangeChecked_fits _ ((streamWindows_fit ..).mpr ⟨hsrc, hdst⟩)

theorem streamCommand_done (h : len = 0) :
    streamCommand dir src dst len s = .next { s with resp := some .ok } := by
  rw [streamCommand_fits dir (.inl h) (.inl h), h, runStream_done, respondOk_eq]

theorem streamCommand_tail (h1 : 1 ≤ len) (h7 : len ≤ 7) (hsrc : FitsData s src len)
    (hdst : FitsData s dst len) :
    streamCommand dir src dst len s =
      .next { s with
        mem := memWrite s.mem dst (xorBytes (encBlk s.sched s.fb).toList (windowBytes s.mem src len))
        fb := xorBlock s.fb (encBlk s.sched s.fb)
        resp := some .ok } := by
  rw [streamCommand_fits dir hsrc hdst, runStream_tail dir src dst (by omega) (by omega),
    ← memRead_eq_windowBytes]
  rfl

/-- A full round on the first 8 bytes, and then the same command on the remaining ones. -/
theorem streamCommand_full (h8 : 8 ≤ len) (hsrc : FitsData s src len) (hdst : FitsData s dst len) :
    streamCommand dir src dst len s =
      streamCommand dir (src + 8) (dst + 8) (len - 8)
        { s with
          mem := memWrite s.mem dst
            (fullRound dir s.sched s.fb (blockOf (windowBytes s.mem src 8))).1.toList
          fb := (fullRound dir s.sched s.fb (blockOf (windowBytes s.mem src 8))).2 } := by
  have hrest {base : Nat} (hfit : FitsData s base len) : FitsData s (base + 8) (len - 8) := by omega
  rw [streamCommand_fits dir hsrc hdst, runStream_full dir src dst h8, ← memRead_eq_windowBytes]
  exact Eq.symm (streamCommand_fits dir (hrest hsrc) (hrest hdst))

end streamCommand

/-- With the response OK, what a run of rounds leaves is the state before it but for DATA, FB and the response. -/
theorem StreamFrame.respondOk {s t : State} {dst n : Nat} (frame : StreamFrame s t dst n) :
    respondOk t = { s with mem := t.mem, fb := t.fb, resp := some .ok } := by
  obtain ⟨hsched, hwk, _, hport, hcfg, _, _, _⟩ := frame
  rw [respondOk_eq, ← hsched, ← hwk, ← hport, ← hcfg]

/-- R31: FS_ENC and FS_DEC complete, and change DATA in their destination window, FB and the response only. -/
theorem streamCommand_completes (dir : Direction) {src dst len : Nat} {s : State} (hsrc : FitsData s src len)
    (hdst : FitsData s dst len) :
    ∃ t, streamCommand dir src dst len s = .next t ∧ t = { s with mem := t.mem, fb := t.fb, resp := some .ok } ∧
      SameOutside s.mem t.mem dst len ∧ (len = 0 → t.fb = s.fb) := by
  have frame := runStream_frame dir src dst len s
  refine ⟨_, streamCommand_fits dir hsrc hdst, frame.respondOk, frame.outside, fun h0 => ?_⟩
  rw [h0, runStream_done]
  rfl

/-! ## FS_INIT past the end of DATA (R234) -/

theorem exec_fsInit_past {s : State} {pw len : Nat} (b : Nat) (h : PastData s pw len) :
    exec (.fsInit pw b len) s = .next { s with resp := some .errRange } := by
  have hpast : windowsFit s.cfg.aw (passwordWindows pw len) = false := by
    rw [← Bool.not_eq_true, passwordWindows_fit]
    omega
  exact rangeChecked_past _ hpast

end Sys2Proof.Machine

open Sys2Proof Sys2Proof.Machine

/-- Settles O41, as ENCBLK and DECBLK undo each other in both orders (R132). -/
theorem fullRoundsUndoEachOther : Obligations.FullRoundsUndoEachOther :=
  fun k fb x => ⟨fsFullDec_fsFullEnc k fb x, fsFullEnc_fsFullDec k fb x⟩

/-- Settles O42: the 8 keystream bytes are enough for 1 to 7 bytes of data. -/
theorem tailIsAKeystreamInvolution : Obligations.TailIsAKeystreamInvolution := by
  intro k fb x _ h7
  have h8 : x.length ≤ 8 := by omega
  refine ⟨fsTail_length k fb h8, fun j hj => ?_, rfl, fsTail_fsTail k fb h8⟩
  exact xorBytes_getD (by rwa [toList_length]) hj

/-- Settles O43, from FS_ENC's four cases: a window past DATA, no bytes, a tail, a full encrypt round. -/
theorem fsEncGoesRoundByRound : Obligations.FsEncGoesRoundByRound := by
  intro s src dst len
  simp only [exec_fsEnc]
  refine ⟨streamCommand_past .enc, streamCommand_done .enc, streamCommand_tail .enc, ?_⟩
  rintro h8 hsrc hdst _ rfl
  exact streamCommand_full .enc h8 hsrc hdst

/-- Settles O44, from the same four cases of FS_DEC. -/
theorem fsDecGoesRoundByRound : Obligations.FsDecGoesRoundByRound := by
  intro s src dst len
  simp only [exec_fsDec]
  refine ⟨streamCommand_past .dec, streamCommand_done .dec, streamCommand_tail .dec, ?_⟩
  rintro h8 hsrc hdst _ rfl
  exact streamCommand_full .dec h8 hsrc hdst

/-- Settles O45, for both directions at once. -/
theorem streamCommandsCompleteAndFrame : Obligations.StreamCommandsCompleteAndFrame := by
  rintro s src dst len hsrc hdst i (rfl | rfl)
  · exact streamCommand_completes .enc hsrc hdst
  · exact streamCommand_completes .dec hsrc hdst

/-- Settles O47, from the induction over a message's chunks. -/
theorem streamRoundTrip : Obligations.StreamRoundTrip := streamBytes_roundTrip

/-- Settles O48, from the length of each chunk's output. -/
theorem streamPreservesLength : Obligations.StreamPreservesLength := streamBytes_length

/-- Settles O49: the tail case of the first part cannot occur. -/
theorem streamSplitsAtMultiplesOfEight : Obligations.StreamSplitsAtMultiplesOfEight :=
  fun dir k fb _ m2 h => streamBytes_append dir k fb m2 h

/-- Settles O50: the first bytes of the output are the stream of the first bytes of the message. -/
theorem streamOutputDependsOnItsPast : Obligations.StreamOutputDependsOnItsPast := by
  refine ⟨fun dir k fb m m' n hm hm' heq => ?_, fun dir dir' k fb m m' h1 h7 h1' h7' => ?_⟩
  · rw [take_streamBytes dir k fb hm, take_streamBytes dir k fb hm', heq]
  · rw [streamBytes_tail_fb dir k fb h1 h7, streamBytes_tail_fb dir' k fb h1' h7']

/-- Settles O52: the digest's 32 bytes are a key, so its schedule is mixed and filled. -/
theorem fsInitDerivesTheSession : Obligations.FsInitDerivesTheSession := by
  refine fun s pw b len => ⟨exec_fsInit_past b, fun hfit => ⟨fun hd => ?_, fun d hd => ?_⟩⟩
  · rw [exec_fsInit_fits b hfit, startSession_fail hd]
  · have hkey : 0 < d.toList.length := by simp
    rw [exec_fsInit_fits b hfit, startSession_keyed hd, State.keyed, keySchedule_of_pos hkey]

/-- Settles O40, from the three answers of FS_DISPATCH. -/
theorem dispatchChoosesTheRound : Obligations.DispatchChoosesTheRound :=
  fun r => ⟨fun h8 => ⟨fsDispatch_full .enc h8, fsDispatch_full .dec h8⟩,
    fun h1 h7 dir => fsDispatch_tail dir (by omega) (by omega), fun dir => (fsDispatch_eq_done_iff dir r).symm⟩
end

section
/-! PROOFS of the statements of 60_exceptions.md: the responses (R231), the illegal opcode bytes (R233), the range
check (R234), what an error leaves (R232, R235, R239), and the order of the errors (R237). -/

namespace Sys2Proof.Machine

/-! ## The response codes (R231) -/

/-- The response whose code is on `resp[1:0]`. -/
def Response.ofCode (c : BitVec 2) : Response :=
  match c with
  | 0 => .ok
  | 1 => .errIllegalCmd
  | 2 => .errRange
  | 3 => .errDigest

theorem Response.code_ofCode : ∀ c, (Response.ofCode c).code = c := by decide

theorem Response.ofCode_code (r : Response) : Response.ofCode r.code = r := by
  cases r <;> rfl

/-! ## An illegal opcode byte (R233) -/

/-- The six opcode bytes of R93. -/
theorem op_encode_mem (i : Instr) :
    (encode i).op ∈ ([0x01, 0x02, 0x03, 0x05, 0x06, 0x07] : List (BitVec 8)) := by
  cases i <;> simp [encode, opByte]

/-- A command that decodes has the opcode byte of its encoding. -/
theorem decode_error_of_op {t : Transaction} (aw : Nat)
    (hop : t.op ∉ ([0x01, 0x02, 0x03, 0x05, 0x06, 0x07] : List (BitVec 8))) :
    ∃ e, decode aw t = .error e := by
  cases hd : decode aw t with
  | error e => exact ⟨e, rfl⟩
  | ok i => exact absurd ((decode_fields hd).1 ▸ op_encode_mem i) hop

theorem step_illegal {s : State} {t : Transaction} {rest : List HostInput} {e : DecodeError}
    (hp : s.port = .command t :: rest) (hd : decode s.cfg.aw t = .error e) :
    step s = .next { s with port := rest, resp := some .errIllegalCmd } := by
  simp only [step, hp, hd]
  rfl

/-! ## A command by its windows (R234, R235) -/

/-- A command has a window past the end of DATA, or all its windows fit. -/
theorem past_or_fits (i : Instr) (s : State) :
    (∃ w ∈ checkedWindows i, PastData s w.1 w.2) ∨ ∀ w ∈ checkedWindows i, FitsData s w.1 w.2 := by
  refine or_iff_not_imp_left.mpr fun hnone w hw => ?_
  have hin : ¬PastData s w.1 w.2 := fun hpast => hnone ⟨w, hw, hpast⟩
  omega

/-- The commands of format B check a source and a destination window of one length. -/
theorem fits_of_pair {s : State} {src dst n : Nat}
    (h : ∀ w ∈ [(src, n), (dst, n)], FitsData s w.1 w.2) : FitsData s src n ∧ FitsData s dst n :=
  ⟨h (src, n) List.mem_cons_self, h (dst, n) (List.mem_cons_of_mem _ List.mem_cons_self)⟩

theorem exec_past {i : Instr} {s : State} (h : ∃ w ∈ checkedWindows i, PastData s w.1 w.2) :
    exec i s = .next { s with resp := some .errRange } := by
  cases i with
  | ceInit key off len => exact exec_ceInit_past (by simpa [checkedWindows] using h)
  | ceEnc src dst len => exact blockCommand_past encBlk (by simpa [checkedWindows] using h)
  | ceDec src dst len => exact blockCommand_past decBlk (by simpa [checkedWindows] using h)
  | fsInit pw b len => exact exec_fsInit_past b (by simpa [checkedWindows] using h)
  | fsEnc src dst len => exact streamCommand_past .enc (by simpa [checkedWindows] using h)
  | fsDec src dst len => exact streamCommand_past .dec (by simpa [checkedWindows] using h)

/-- An FS_INIT in range answers OK, or ERR_DIGEST with FB alone set (R235). -/
theorem exec_fsInit_answers {s : State} {pw len : Nat} (b : Nat) (h : FitsData s pw len) :
    (∃ t, exec (.fsInit pw b len) s = .next t ∧ t.resp = some .ok) ∨
      exec (.fsInit pw b len) s = .next { s with fb := onesBlock, resp := some .errDigest } := by
  rw [exec_fsInit_fits b h]
  cases hd : digestAnswer s.cfg.digest (windowBytes s.mem pw len) with
  | none => exact .inr (by rw [startSession_fail hd])
  | some d => exact .inl ⟨_, by rw [startSession_keyed hd], rfl⟩

/-- A command in range answers OK, unless it is an FS_INIT whose digest port fails. -/
theorem exec_fits {i : Instr} {s : State} (h : ∀ w ∈ checkedWindows i, FitsData s w.1 w.2) :
    (∃ t, exec i s = .next t ∧ t.resp = some .ok) ∨
      ((∃ pw b len, i = .fsInit pw b len) ∧
        exec i s = .next { s with fb := onesBlock, resp := some .errDigest }) := by
  cases i with
  | ceInit key off len =>
    exact .inl ⟨_, exec_ceInit_fits (h (key + off, len) List.mem_cons_self), rfl⟩
  | ceEnc src dst len =>
    obtain ⟨hsrc, hdst⟩ := fits_of_pair h
    exact .inl ⟨_, exec_ceEnc_fits s src dst len hsrc hdst, rfl⟩
  | ceDec src dst len =>
    obtain ⟨hsrc, hdst⟩ := fits_of_pair h
    exact .inl ⟨_, exec_ceDec_fits s src dst len hsrc hdst, rfl⟩
  | fsInit pw b len =>
    have hfit := h (pw, len) List.mem_cons_self
    exact (exec_fsInit_answers b hfit).imp_right fun hfail => ⟨⟨pw, b, len, rfl⟩, hfail⟩
  | fsEnc src dst len =>
    obtain ⟨hsrc, hdst⟩ := fits_of_pair h
    exact .inl ⟨_, exec_fsEnc_fits s src dst len hsrc hdst, rfl⟩
  | fsDec src dst len =>
    obtain ⟨hsrc, hdst⟩ := fits_of_pair h
    exact .inl ⟨_, exec_fsDec_fits s src dst len hsrc hdst, rfl⟩

/-- Everything a command can answer: OK, ERR_RANGE with nothing else changed, or, an FS_INIT only, ERR_DIGEST with
FB alone set. -/
theorem exec_answers (i : Instr) (s : State) :
    (∃ t, exec i s = .next t ∧ t.resp = some .ok) ∨ exec i s = .next { s with resp := some .errRange } ∨
      ((∃ pw b len, i = .fsInit pw b len) ∧
        exec i s = .next { s with fb := onesBlock, resp := some .errDigest }) := by
  rcases past_or_fits i s with hpast | hfits
  · exact .inr (.inl (exec_past hpast))
  · exact (exec_fits hfits).imp_right .inr

end Sys2Proof.Machine

open Sys2Proof Sys2Proof.Machine

/-- Settles O7: the decoder answers an error, whatever the operands. -/
theorem illegalCommandHasNoEffect : Obligations.IllegalCommandHasNoEffect := by
  intro s t rest hp hop
  obtain ⟨e, hd⟩ := decode_error_of_op s.cfg.aw hop
  exact step_illegal hp hd

/-- Settles O8: an illegal command is answered on the spot, a legal one ends as its frame and its answers say. -/
theorem everyCommandEndsWithOneResponse : Obligations.EveryCommandEndsWithOneResponse := by
  refine ⟨fun s t rest hp => ?_, fun i s => ?_⟩
  · cases hd : decode s.cfg.aw t with
    | error e => exact ⟨_, _, step_illegal hp hd, rfl, rfl, rfl⟩
    | ok i =>
      obtain ⟨u, hu, frame⟩ := exec_frame i (s.setPort rest)
      obtain ⟨r, hr⟩ := frame.resp
      exact ⟨u, r, (step_command hp hd).trans hu, hr, frame.port, frame.cfg⟩
  · rcases exec_answers i s with ⟨t, ht, hok⟩ | hrange | ⟨hinit, hdigest⟩
    · exact ⟨t, .ok, ht, hok, nofun, nofun⟩
    · exact ⟨_, .errRange, hrange, rfl, nofun, nofun⟩
    · exact ⟨_, .errDigest, hdigest, rfl, nofun, fun _ => hinit⟩

/-- Settles O10: each answer of a command gives its whole next state where it is an error. -/
theorem errorsArePrecise : Obligations.ErrorsArePrecise := by
  intro s u t rest hp hs
  cases hd : decode s.cfg.aw t with
  | error e =>
    rw [step_illegal hp hd] at hs
    cases hs
    exact ⟨fun _ => rfl, nofun, nofun⟩
  | ok i =>
    rw [step_command hp hd] at hs
    rcases exec_answers i (s.setPort rest) with ⟨v, hv, hok⟩ | hrange | ⟨_, hdigest⟩
    · cases hv.symm.trans hs
      simp [hok]
    · cases hrange.symm.trans hs
      exact ⟨nofun, fun _ => rfl, nofun⟩
    · cases hdigest.symm.trans hs
      exact ⟨nofun, nofun, fun _ => rfl⟩

/-- Settles O11, from what a command does by its windows. -/
theorem rangeErrorIsExact : Obligations.RangeErrorIsExact := by
  refine fun i s => ⟨exec_past, fun hfits => ?_⟩
  rcases exec_fits hfits with ⟨t, ht, hok⟩ | ⟨hinit, hdigest⟩
  · exact ⟨t, ht, .inl hok⟩
  · exact ⟨_, hdigest, .inr ⟨rfl, hinit⟩⟩

/-- Settles O12: the decoder comes before the windows, and the windows, which the digest port has no part in, before
the digest. -/
theorem errorsHaveAFixedPriority : Obligations.ErrorsHaveAFixedPriority := by
  refine ⟨fun s t rest hp hop => ?_, fun i s hpast port => ?_, fun s pw b len hfit hd => ?_⟩
  · exact ⟨_, illegalCommandHasNoEffect s t rest hp hop, rfl⟩
  · exact ⟨_, exec_past (s := { s with cfg := { s.cfg with digest := port } }) hpast, rfl, rfl⟩
  · exact ⟨_, exec_fsInit_fits b hfit, by rw [startSession_fail hd]⟩

/-- Settles O9: reading a response back from its code goes both ways. -/
theorem responseCodesFillTheField : Obligations.ResponseCodesFillTheField :=
  ⟨fun c => ⟨_, Response.code_ofCode c⟩, fun _ _ h => Function.LeftInverse.injective Response.ofCode_code h,
    rfl, rfl, rfl, rfl⟩
end

section
/-! PROOFS of the statements of 70_reset_and_hazards.md: the reset input (R260, R261), and a receiver whose FB differs
from the sender's (R265). -/

namespace Sys2Proof.Machine

/-! ## The reset input (R260, R261) -/

theorem step_assertReset {s : State} {rest : List HostInput} (hp : s.port = .assertReset :: rest) :
    step s = .next { s with
      port := rest, sched := Schedule.zero, wk := false, fb := s.cfg.fbReset, resp := none } := by
  simp only [step, hp]
  rfl

/-! ## A feedback difference (R265) -/

theorem xorBlock_right_comm (a b c : Block) : xorBlock (xorBlock a b) c = xorBlock (xorBlock a c) b := by
  rw [xorBlock_assoc, xorBlock_comm b c, ← xorBlock_assoc]

/-- Both results of a full decrypt round are FB exclusive-or something that does not depend on FB (R162). -/
theorem fullRound_dec_xorBlock (k : Schedule) (fb d c : Block) :
    fullRound .dec k (xorBlock fb d) c =
      (xorBlock (fullRound .dec k fb c).1 d, xorBlock (fullRound .dec k fb c).2 d) := by
  simp only [fullRound, fsFullDec, xorBlock_right_comm fb d]

theorem streamBytes_dec_xorBlock_snd (k : Schedule) (fb d : Block) {c : List Byte} (hc : c.length % 8 = 0) :
    (streamBytes .dec k (xorBlock fb d) c).2 = xorBlock (streamBytes .dec k fb c).2 d := by
  induction c using message_induction generalizing fb with
  | done => simp only [streamBytes_nil]
  | tail c hne hlt =>
    have hpos := List.length_pos_iff.mpr hne
    omega
  | full c h8 ih =>
    have hrest : (c.drop 8).length % 8 = 0 := by rw [List.length_drop]; omega
    simp only [streamBytes_full .dec k _ h8, fullRound_dec_xorBlock]
    exact ih _ hrest

/-- Output block 0 of a stream is that of its first full round. -/
theorem blockOf_streamBytes (dir : Direction) (k : Schedule) (fb : Block) {m : List Byte} (h : 8 ≤ m.length) :
    blockOf (streamBytes dir k fb m).1 = (fullRound dir k fb (blockOf m)).1 := by
  rw [streamBytes_full dir k fb h, blockOf_toList_append]

/-- The output from block `n + 1` on is that of the stream after the first full round, from block `n` on. -/
theorem drop_streamBytes_succ (dir : Direction) (k : Schedule) (fb : Block) {m : List Byte} (n : Nat)
    (h : 8 ≤ m.length) :
    (streamBytes dir k fb m).1.drop (8 * (n + 1)) =
      (streamBytes dir k (fullRound dir k fb (blockOf m)).2 (m.drop 8)).1.drop (8 * n) := by
  rw [streamBytes_full dir k fb h, Nat.mul_succ, Nat.add_comm, ← List.drop_drop,
    List.drop_left' (toList_length _)]

/-- Every full block of a message, one with a tail too, comes out with the difference. -/
theorem blockOf_drop_streamBytes_dec_xorBlock (k : Schedule) (fb d : Block) {c : List Byte} {n : Nat}
    (hn : n < c.length / 8) :
    blockOf ((streamBytes .dec k (xorBlock fb d) c).1.drop (8 * n)) =
      xorBlock (blockOf ((streamBytes .dec k fb c).1.drop (8 * n))) d := by
  have h8 : 8 ≤ c.length := by omega
  induction n generalizing fb c with
  | zero => simp only [Nat.mul_zero, List.drop_zero, blockOf_streamBytes .dec k _ h8, fullRound_dec_xorBlock]
  | succ n ih =>
    have hrest : n < (c.drop 8).length / 8 := by rw [List.length_drop]; omega
    simp only [drop_streamBytes_succ .dec k _ n h8, fullRound_dec_xorBlock]
    exact ih _ hrest (by omega)

end Sys2Proof.Machine

open Sys2Proof Sys2Proof.Machine

/-- Settles O13: the reset input's one next state, whose schedule is the zero schedule. -/
theorem resetInputGivesTheResetState : Obligations.ResetInputGivesTheResetState :=
  fun _ _ hp => ⟨_, step_assertReset hp, fun j _ => slotWord_zero j, rfl, rfl, rfl, rfl, rfl, rfl⟩

/-- Settles O51: the difference goes through each full decrypt round into the block and into FB. -/
theorem feedbackDifferenceIsCarriedForward : Obligations.FeedbackDifferenceIsCarriedForward :=
  fun k fb d _ hc => ⟨streamBytes_dec_xorBlock_snd k fb d hc, fun _ hn =>
    blockOf_drop_streamBytes_dec_xorBlock k fb d hn⟩
end
